-- ==== Sys2Proof/Word.lean ====
section
/-! DEFINITION. The words of the Fovira BX4: bytes, the numbers that name ports, entries and poll slots, and the sets
the manual carries as groups of bits (spec/10_formats_and_codes.md, R172). -/

namespace Sys2Proof

/-- A byte of a frame, of the management bus or of the configuration memory. -/
abbrev Byte := BitVec 8

/-- A port number: U0 to U3 (spec/00_scope.md). -/
abbrev Port := Fin 4

/-- A directory slot: E0 to E31 (R2). -/
abbrev EntryNo := Fin 32

/-- A Poll Table slot, 0 to 5 (R87). -/
abbrev SlotNo := Fin 6

/-- A privilege level or a lock level, 0 to 3; 0 is the most privileged (spec/00_scope.md, Privilege; R5). -/
abbrev Level := Fin 4

/-- The number of a NOTIFY line (R155). -/
abbrev Line := Fin 4

/-- A set of ports: bit n is set when Un is a member (R172). -/
abbrev PortSet := BitVec 4

/-- A set of entry numbers: bit e is set when Ee is a member (section 10.6). -/
abbrev EntrySet := BitVec 32

/-- A set of event flags, in the bit order of the event flag word (section 10.6). -/
abbrev FlagSet := BitVec 10

/-- The time base: a count of milliseconds, 48 bits wide (R1). -/
abbrev Time := BitVec 48

end Sys2Proof
end

