-- ==== Sys2Proof/Codes.lean ====
section
/-! DEFINITION. The enumerations of the manual, one inductive type each. Their encodings are in Machine/Formats.lean. -/

namespace Sys2Proof.Machine

/-- Request kinds (R22, R23). -/
inductive Kind where
  | read | write | send | recv | poll | probe | lock | unlock | brk | fence
deriving DecidableEq, Repr, Inhabited

/-- Status codes of completion records (R44). -/
inductive Status where
  | ok | nackAddr | nackData | noDevice | busStuck | busFault | locked | exhausted | aborted | notHeld | outranked
deriving DecidableEq, Repr, Inhabited

/-- Result codes of commands (section 10.7); `noCode` is NONE. -/
inductive ResultCode where
  | done | badCommand | shortFrame | notReady | wrongPhase | notPermitted | queueFull | dupTag | malformed
  | noEntry | badKind | badRange | denied | notFound | inFlight | notOwner | empty | held | dirConflict
  | badPort | noCode
deriving DecidableEq, Repr, Inhabited

/-- How an entry's most recent lock ended (R68, R71). -/
inductive ReleaseReason where
  | initial | normal | expired | broken | reset
deriving DecidableEq, Repr

/-- Previous-release values of LOCK and BREAK records (R43, R71). -/
inductive PrevRelease where
  | initial | normal | expired | broken | reset | alreadyOwned
deriving DecidableEq, Repr

/-- Load fault codes, in the order of R167; `noFault` is NONE. -/
inductive LoadFault where
  | noFault | noMemory | busError | badSignature | badVersion | badHeader | badRecord | order | dupAddress
  | tooLong | checksum
deriving DecidableEq, Repr

/-- The part's phase (R158). -/
inductive Phase where
  | loading | config | run
deriving DecidableEq, Repr

/-- Port states (R124). -/
inductive PortState where
  | active | held | offline
deriving DecidableEq, Repr

/-- Who holds a HELD port (R123, R139). -/
inductive HoldOrigin where
  | self
  | port (p : Port)
deriving DecidableEq, Repr

/-- Why a port's state was last reset (R123). -/
inductive ResetCause where
  | powerOn | pin | restart | hold
deriving DecidableEq, Repr

/-- Entry types (R4). -/
inductive EntryType where
  | byte | indexed8 | indexed16
deriving DecidableEq, Repr

/-- Device health, derived from the consecutive-NACK count (R14). -/
inductive Health where
  | present | suspect | absent
deriving DecidableEq, Repr

/-- When a poll ends successfully (R22, R96). -/
inductive Condition where
  | untilEqual | untilDifferent
deriving DecidableEq, Repr

/-- Whether reading a port's flags clears them (R145, R149). -/
inductive ClearMode where
  | readClears | ackClears
deriving DecidableEq, Repr

/-- States of the Bus Engine (R103). -/
inductive BusState where
  | ready | busy | recovering | faulted
deriving DecidableEq, Repr

/-- Speeds of the management bus (R103). -/
inductive BusSpeed where
  | khz100 | khz400
deriving DecidableEq, Repr

/-- Causes of a recovery sequence (R103, R117). -/
inductive RecoveryCause where
  | blockedStart | afterStuck | retry | startUp
deriving DecidableEq, Repr

/-- Steps of the Configuration Loader (R159). -/
inductive LoaderStep where
  | resetWait | startRecovery | reading | validating | finished
deriving DecidableEq, Repr

/-- Head states of a Request Queue (R32). -/
inductive HeadState where
  | queued | deferred | creditWait
deriving DecidableEq, Repr

/-- States of an occupied Poll Table slot (R88). -/
inductive PollState where
  | waiting | due | running | blocked
deriving DecidableEq, Repr

/-- The five positions of the bus arbiter (R49, R56). -/
inductive Position where
  | port (p : Port)
  | poll
deriving DecidableEq, Repr

/-- Event flags (R146). -/
inductive Flag where
  | completion | change | lockBroken | leaseExpired | deviceLost | deviceBack | busFault | busOk | loadFault | peer
deriving DecidableEq, Repr

/-- The commands of the frame protocol (section 10.7). -/
inductive Command where
  | status | submit | fetch | cancel | events | ackEvents | setMask | changes | watch | unwatch | renew | dirRead
  | dirWrite | dirClear | seal | hold | release | restart
deriving DecidableEq, Repr

/-- Statuses of a report of the Bus Engine (R112). -/
inductive BusStatus where
  | ok | nackAddr | nackData | stuck
deriving DecidableEq, Repr

/-- Address outcomes relayed to the directory (R15). -/
inductive AddressOutcome where
  | nack | ack | noOutcome
deriving DecidableEq, Repr

end Sys2Proof.Machine
end

