-- ==== Sys2Proof/Syntax.lean ====
section
/-! DEFINITION. The commands: one constructor for each row of spec/opcode_table.json, in the table's order. -/

namespace Sys2Proof

/-- What the Bus Engine read on the two wires around a command (R104, R113). `samples` are the levels of MDA it
sampled since the command before, oldest first, one for each clock pulse it made and one for each START, repeated
START and STOP it tried (true is high); where a command makes the engine start new work, samples beyond the work that
ended belong to the new work. `mckLow` says that after the command a device holds MCK low while the engine waits
for it to rise (DESIGN CHOICE, log 5). -/
structure BusRead where
  samples : List Bool
  mckLow : Bool
deriving DecidableEq, Repr

/-- The commands of the block. A frame-end command names its port and the bits received on data-in after byte 0 of
the frame, in order of arrival (R125, R128). -/
inductive Instr where
  | powerOn (resetnHigh : Bool)
  | resetnFall
  | loaderStart (cfga0 cfga1 : Bool) (bus : BusRead)
  | tick (bus : BusRead)
  | frameOpen (p : Port)
  | responseSnapshot (p : Port) (byte0 : Byte)
  | ignoredFrame (p : Port) (bits : List Bool)
  | unknownCommand (p : Port) (bits : List Bool)
  | status (p : Port) (bits : List Bool)
  | submit (p : Port) (bits : List Bool)
  | fetch (p : Port) (bits : List Bool)
  | cancel (p : Port) (bits : List Bool)
  | events (p : Port) (bits : List Bool)
  | ackEvents (p : Port) (bits : List Bool)
  | setMask (p : Port) (bits : List Bool)
  | changes (p : Port) (bits : List Bool)
  | watch (p : Port) (bits : List Bool)
  | unwatch (p : Port) (bits : List Bool)
  | renew (p : Port) (bits : List Bool)
  | dirRead (p : Port) (bits : List Bool)
  | dirWrite (p : Port) (bits : List Bool)
  | dirClear (p : Port) (bits : List Bool)
  | seal (p : Port) (bits : List Bool)
  | hold (p : Port) (bits : List Bool)
  | release (p : Port) (bits : List Bool)
  | restart (p : Port) (bits : List Bool)
  | fenceHead (p : Port)
  | pollParking (p : Port)
  | lockHead (p : Port)
  | unlockHead (p : Port)
  | breakHead (p : Port)
  | endWithoutBus (p : Port)
  | grant (bus : BusRead)
  | transactionComplete (bus : BusRead)
  | pollIterationComplete (bus : BusRead)
  | loaderReadComplete (bus : BusRead)
  | recoveryComplete (bus : BusRead)
  | leaseExpiry (e : EntryNo)
  | deferralExpiry (p : Port)
  | blockExpiry (k : SlotNo)
  | pollDue (k : SlotNo)
  | stretchLimit (bus : BusRead)
  | retry (bus : BusRead)
deriving DecidableEq, Repr

end Sys2Proof
end

