-- ==== Sys2Proof/Decode.lean ====
section
/-! DEFINITION. The words of the commands. spec/opcode_table.json gives no row any bits ("fields" is empty in each and
there is no "fixed"), so no word spells a command. -/

namespace Sys2Proof

/-- The command a word of the opcode table spells: none, for the table gives no bits to any row. -/
def decodeTableWord (_nbits _w : Nat) : Option Instr := none

end Sys2Proof
end

