-- ==== Sys2Proof/Config.lean ====
section
/-! DEFINITION. The free values: constants with no body, so that nothing can be proved of a value the manual leaves
open. Each is applied to `State.freeCount`, a counter the step advances whenever it reads one. -/

namespace Sys2Proof

/-- What the time base holds at the tick after its largest value: R1 gives it 48 bits and does not say what follows
the largest (log 7). -/
opaque Config.freeTime : Nat → Time

/-- What data-out holds on a port that a restart made ACTIVE while its select, which fell or stayed low while it was
OFFLINE, has not yet risen: R125 has the part drive the line and gives no value (DESIGN CHOICE, log 8). The first argument is the
free-value counter and port, the second the place of the byte. -/
opaque Config.freeDataOut : Nat → Nat → Byte

/-- A rank for each of several records that one step appends to one Completion Queue: R77 and R64 leave their order
open (log 9). The first argument is the free-value counter and port, the second the record's place in the step. -/
opaque Config.freeRank : Nat → Nat → Nat

end Sys2Proof
end

