-- ==== Sys2Proof/Machine/Records.lean ====
section
/-! DEFINITION. The records the block keeps: the parts of the state, as plain data. Each field's docstring names the
rule that gives it; INVENTORY.md lists every piece of state. -/

namespace Sys2Proof.Machine

/-! ### Requests and completions -/

/-- A request record (R22). A field that the kind does not carry is 0 or empty, and has no effect (R23). -/
structure Request where
  tag : Byte
  kind : Kind
  /-- The entry byte as carried; 0 to 31 name a slot. -/
  entry : Byte
  waitLimit : Byte
  index : BitVec 16
  length : Byte
  /-- The condition byte as carried: 0 UNTIL_EQUAL, 1 UNTIL_DIFFERENT (section 10.3). -/
  condition : Byte
  data : List Byte
  mask : Byte
  matchByte : Byte
  count : BitVec 16
  interval : Byte
  lease : Byte
deriving DecidableEq, Repr

/-- A completion record (R40). Its length field is 8 plus the number of data bytes and is computed from them. -/
structure Completion where
  tag : Byte
  kind : Kind
  entry : Byte
  status : Status
  lockLost : Bool
  previousRelease : Option PrevRelease
  count : Nat
  data : List Byte
deriving DecidableEq, Repr

/-! ### The Target Directory -/

/-- A window of an entry (R6, R7). -/
structure Window where
  first : BitVec 16
  last : BitVec 16
  readSet : PortSet
  writeSet : PortSet
deriving DecidableEq, Repr

/-- An occupied directory slot (R2 to R7, R14, R17, R68). -/
structure Entry where
  address : BitVec 7
  type : EntryType
  lockLevel : Level
  windows : List Window
  /-- The consecutive-NACK count; health is a view of it (R14). -/
  nackCount : Fin 4
  owner : Option Port
  /-- In units of 4 ms. -/
  leaseValue : Nat
  /-- In ms. -/
  leaseRemaining : Nat
  releaseReason : ReleaseReason
  watchSet : PortSet
deriving DecidableEq, Repr

/-! ### The Notify Unit -/

/-- The flags or entries a port's open EVENTS or CHANGES frame will clear at its end (R145, R149, R154). -/
inductive ClearList where
  | absent
  | flags (f : FlagSet)
  | entries (e : EntrySet)
deriving DecidableEq, Repr

/-- The Notify Unit's state for one port (R145). `flags` holds the nine edge flags; COMPLETION is a view of the
Completion Queue and its place here is never set (R146). -/
structure NotifyUnit where
  flags : FlagSet
  mask : FlagSet
  clearMode : ClearMode
  route : Line
  changed : EntrySet
  clearList : ClearList
deriving DecidableEq, Repr

/-! ### The Port Units -/

/-- The response snapshot of a frame (R127). -/
inductive Response where
  | absent
  | status (bytes : List Byte)
  | record (r : Option Completion)
  | directory (slots : Vector (Option Entry) 32)
  | flags (f : FlagSet)
  | changed (e : EntrySet)
deriving DecidableEq, Repr

/-- A frame in progress (R123, R126, R127). -/
structure Frame where
  /-- The frame status byte, captured at select fall. -/
  statusByte : Byte
  /-- The bits received so far, first received first. -/
  bitsIn : List Bool
  /-- The last-result byte, captured when byte 0 is complete; absent before. -/
  lastResult : Option ResultCode
  response : Response
  /-- The port was HELD at the end of byte 0, or has been held since (what R45 asks of a FETCH). -/
  heldSince : Bool
deriving DecidableEq, Repr

/-- The port's select line and frame (R125, R144): select high; a frame in progress; a frame discarded by a restart
whose select has not yet risen; or select low without a frame, since it fell on an OFFLINE port, or its frame, in progress
or discarded by a restart, went with the port's becoming OFFLINE (the latter: DESIGN CHOICE, log 8). -/
inductive FrameState where
  | idle
  | opened (f : Frame)
  | discarded
  | ignored
deriving DecidableEq, Repr

/-- What a Port Unit holds (R123), with the Notify Unit's and the scheduler's state for the port (R145, R49). -/
structure PortUnit where
  state : PortState
  level : Level
  origin : Option HoldOrigin
  resetCause : ResetCause
  lastResult : ResultCode
  /-- The Request Queue, head first (R31). -/
  requests : List Request
  /-- The Completion Queue, oldest first (R36). -/
  completions : List Completion
  /-- Reserved completion credits (R37). -/
  credits : Nat
  frame : FrameState
  notify : NotifyUnit
  /-- The head's deferral timer in ms (R49, R58). -/
  deferral : Option Nat
  /-- The LOCKED mark (R49). -/
  lockedMark : Bool
deriving DecidableEq, Repr

/-! ### The Bus Scheduler -/

/-- A parked poll (R87). -/
structure Poll where
  port : Port
  tag : Byte
  entry : EntryNo
  index : BitVec 16
  mask : Byte
  matchByte : Byte
  condition : Condition
  count : Nat
  remaining : Nat
  interval : Nat
  waitLimit : Byte
  lastByte : Option Byte
  nextDue : Nat
  blockTimer : Option Nat
  cancelPending : Bool
  state : PollState
deriving DecidableEq, Repr

/-- The current-transaction record (R49, R62, R95): `slot` is the poll slot served, none for a port position. -/
structure Current where
  port : Port
  slot : Option SlotNo
  tag : Byte
  kind : Kind
  entry : EntryNo
  ownedAtGrant : Bool
  lockLost : Bool
  discard : Bool
deriving DecidableEq, Repr

/-- The Bus Scheduler's own state (R49). -/
structure Scheduler where
  turn : Position
  current : Option Current
  polls : Vector (Option Poll) 6
deriving DecidableEq, Repr

/-! ### The Bus Engine -/

/-- What an acknowledge bit acknowledges (R109). -/
inductive Acked where
  | address | index | data
deriving DecidableEq, Repr

/-- One point at which the engine samples MDA (R104 to R106): the reading before the first START, one bit sent, the
acknowledge bit of a byte sent, the repeated START, one bit received, the engine's own acknowledge bit, and the
release of a STOP. -/
inductive WireSlot where
  | start
  | sendBit (b : Bool)
  | ack (what : Acked)
  | repStart
  | recvBit
  | ownAck (ack : Bool)
  | stop
deriving DecidableEq, Repr

/-- Who asked for a transaction (R103). -/
inductive Requester where
  | scheduler | loader
deriving DecidableEq, Repr

/-- The shapes of R108; a poll iteration and a loader read have READ's. -/
inductive Shape where
  | read | write | send | recv | probe
deriving DecidableEq, Repr

/-- The engine's current transaction (R103), with what the manual implies of a transfer in progress: the wire points
still to come, the bits of the byte being received, the refusal already met, and the outcome once reached. -/
structure Transaction where
  requester : Requester
  address : BitVec 7
  indexBytes : List Byte
  shape : Shape
  length : Nat
  data : List Byte
  indexAcked : Nat
  dataAcked : Nat
  received : List Byte
  slots : List WireSlot
  shiftIn : List Bool
  refusal : Option BusStatus
  outcome : Option BusStatus
deriving DecidableEq, Repr

/-- Where a recovery sequence stands (R117): before the first reading of MDA (steps 1 and 2), giving pulses (step 3),
or sending STOP (step 4). -/
inductive RecoveryStage where
  | settling | pulsing | stopping
deriving DecidableEq, Repr

/-- The recovery record (R103, R117). -/
structure Recovery where
  cause : RecoveryCause
  pulses : Nat
  stage : RecoveryStage
  outcome : Option Bool
deriving DecidableEq, Repr

/-- The Bus Engine (R103). Timers in ms. -/
structure Engine where
  busState : BusState
  transaction : Option Transaction
  recovery : Option Recovery
  stretch : Option Nat
  retry : Option Nat
  fault : Bool
  speed : BusSpeed
deriving DecidableEq, Repr

/-! ### The Start-up Controller -/

/-- The Start-up Controller's Configuration Loader (R159). -/
structure Loader where
  step : LoaderStep
  memAddress : Option (BitVec 7)
  staging : List Byte
  walk : Nat
  fault : LoadFault
deriving DecidableEq, Repr

end Sys2Proof.Machine
end

