-- ==== Sys2Proof/Machine/Initial.lean ====
section
/-! DEFINITION. The value each block's state takes after a restart (R161). -/

namespace Sys2Proof.Machine

/-- The Notify Unit's state for port `p` after a restart (R145, R157). -/
def NotifyUnit.initial (p : Port) : NotifyUnit :=
  { flags := 0, mask := 0, clearMode := .readClears, route := p, changed := 0, clearList := .absent }

/-- The restart level of a port: U0 0, the others 3 (R123). -/
def restartLevel (p : Port) : Level := if p = 0 then 0 else 3

/-- A Port Unit after a restart with the given cause (R123, R47, R49). -/
def PortUnit.initial (p : Port) (cause : ResetCause) (frame : FrameState) : PortUnit :=
  { state := .active, level := restartLevel p, origin := none, resetCause := cause, lastResult := .noCode,
    requests := [], completions := [], credits := 0, frame := frame, notify := NotifyUnit.initial p,
    deferral := none, lockedMark := false }

/-- The Bus Scheduler after a restart (R49, R102). -/
def Scheduler.initial : Scheduler :=
  { turn := .poll, current := none, polls := Vector.replicate 6 none }

/-- The Bus Engine after a restart (R103, R122). -/
def Engine.initial : Engine :=
  { busState := .ready, transaction := none, recovery := none, stretch := none, retry := none, fault := false,
    speed := .khz100 }

/-- The Configuration Loader after a restart (R159). -/
def Loader.initial : Loader :=
  { step := .resetWait, memAddress := none, staging := [], walk := 8, fault := .noFault }

end Sys2Proof.Machine
end

