-- ==== Sys2Proof/Machine/State.lean ====
section
/-! DEFINITION. The state of the block as plain data, the reasons a step could stop, and the state after reset. -/

namespace Sys2Proof.Machine

/-- The machine's faults: none. Every command of the table has an effect in every state, and the part's own errors
are values in the state. (A closed type with no constructor: nothing raises it, which is safe.) -/
inductive Fault
deriving DecidableEq, Repr

/-- Why a command may be refused. -/
inductive Refusal where
  /-- A command that has no meaning yet; raised by an arm of `exec` only, and by none now. Safe. -/
  | notModelled (mnemonic : String)
deriving DecidableEq, Repr

/-- The whole block. -/
structure State where
  /-- The commands that wait, first in first out: the MODEL's own. -/
  pending : List Instr
  timeBase : Time
  phase : Phase
  /-- The level of the RESETN pin, true when high. -/
  resetn : Bool
  loader : Loader
  ports : Vector PortUnit 4
  directory : Vector (Option Entry) 32
  scheduler : Scheduler
  engine : Engine
  /-- How many free values have been read: the MODEL's own (log 18). -/
  freeCount : Nat
deriving DecidableEq, Repr

/-- The machine right after reset: a power-on (R160, R161). DESIGN CHOICE (log 4): RESETN is high and no port's
select is low, for which the manual gives no value; log 18: the free-value counter is 0. -/
def State.reset : State :=
  { pending := [], timeBase := 0, phase := .loading, resetn := true, loader := Loader.initial,
    ports := Vector.ofFn fun p => PortUnit.initial p .powerOn .idle,
    directory := Vector.replicate 32 none, scheduler := Scheduler.initial, engine := Engine.initial,
    freeCount := 0 }

end Sys2Proof.Machine
end

