-- ==== Sys2Proof/Machine/Access.lean ====
section
/-! DEFINITION. Reading and writing the parts of the state: one home for every port, entry and poll slot, and the sets
that the manual carries as bits. -/

namespace Sys2Proof.Machine

/-! ### Sets of ports, entries and flags (R172) -/

/-- Member `i` of a set of bits. -/
def hasBit {w : Nat} (s : BitVec w) (i : Fin w) : Bool := s.getLsbD i.val

/-- The set with member `i` added. -/
def withBit {w : Nat} (s : BitVec w) (i : Fin w) : BitVec w := s ||| BitVec.twoPow w i.val

/-- The set with member `i` removed. -/
def withoutBit {w : Nat} (s : BitVec w) (i : Fin w) : BitVec w := s &&& ~~~(BitVec.twoPow w i.val)

/-! ### Ports -/

/-- Port Unit `p` with its Notify Unit state. -/
def State.port (s : State) (p : Port) : PortUnit := s.ports[p]

/-- `s` with port `p` replaced. -/
def State.setPort (s : State) (p : Port) (u : PortUnit) : State := { s with ports := s.ports.set p u }

/-- `s` with port `p` changed by `f`. -/
def State.modPort (s : State) (p : Port) (f : PortUnit → PortUnit) : State := s.setPort p (f (s.port p))

/-- `s` with every port changed. -/
def State.mapPorts (s : State) (f : Port → PortUnit → PortUnit) : State :=
  { s with ports := Vector.ofFn fun p => f p (s.port p) }

/-- The port with its Notify Unit state changed by `f`. -/
def PortUnit.modNotify (u : PortUnit) (f : NotifyUnit → NotifyUnit) : PortUnit := { u with notify := f u.notify }

/-! ### Directory slots -/

/-- Directory slot `e`: an entry, or empty (R2). -/
def State.entry (s : State) (e : EntryNo) : Option Entry := s.directory[e]

/-- `s` with directory slot `e` replaced. -/
def State.setEntry (s : State) (e : EntryNo) (x : Option Entry) : State :=
  { s with directory := s.directory.set e x }

/-- `s` with the entry of slot `e`, if any, changed by `f`. -/
def State.modEntry (s : State) (e : EntryNo) (f : Entry → Entry) : State := s.setEntry e ((s.entry e).map f)

/-- `s` with every entry changed. -/
def State.mapEntries (s : State) (f : Entry → Entry) : State :=
  { s with directory := Vector.ofFn fun e => (s.entry e).map f }

/-- The slot an entry byte names, if it names one: 0 to 31 (R2). -/
def entryOfByte (b : Byte) : Option EntryNo := if h : b.toNat < 32 then some ⟨b.toNat, h⟩ else none

/-- The port a byte names, if it names one: 0 to 3 (R173). -/
def portOfByte (b : Byte) : Option Port := if h : b.toNat < 4 then some ⟨b.toNat, h⟩ else none

/-- The number of occupied directory slots (R135). -/
def State.occupied (s : State) : Nat := (List.finRange 32).countP fun e => (s.entry e).isSome

/-! ### Poll slots -/

/-- Poll Table slot `k`: a parked poll, or free (R87). -/
def State.poll (s : State) (k : SlotNo) : Option Poll := s.scheduler.polls[k]

/-- `s` with Poll Table slot `k` replaced. -/
def State.setPoll (s : State) (k : SlotNo) (q : Option Poll) : State :=
  { s with scheduler := { s.scheduler with polls := s.scheduler.polls.set k q } }

/-- `s` with every Poll Table slot changed. -/
def State.mapPolls (s : State) (f : Option Poll → Option Poll) : State :=
  { s with scheduler := { s.scheduler with polls := Vector.ofFn fun k => f (s.poll k) } }

/-- `s` with the current-transaction record replaced. -/
def State.setCurrent (s : State) (c : Option Current) : State :=
  { s with scheduler := { s.scheduler with current := c } }

/-- `s` with the turn pointer moved. -/
def State.setTurn (s : State) (t : Position) : State := { s with scheduler := { s.scheduler with turn := t } }

/-- `s` with the Bus Engine replaced. -/
def State.setEngine (s : State) (e : Engine) : State := { s with engine := e }

/-- The number of polls port `p` has parked (R87, R135). -/
def State.parked (s : State) (p : Port) : Nat :=
  (List.finRange 6).countP fun k => (s.poll k).any fun q => q.port = p

/-- The lowest-numbered free Poll Table slot (R89). -/
def State.freeSlot (s : State) : Option SlotNo := (List.finRange 6).find? fun k => (s.poll k).isNone

/-- `s` with the port's last result code set (R128, R133). -/
def State.setResult (s : State) (p : Port) (r : ResultCode) : State :=
  s.modPort p fun u => { u with lastResult := r }

end Sys2Proof.Machine
end

