-- ==== Sys2Proof/Machine/Flags.lean ====
section
/-! DEFINITION. Event flags, masks and NOTIFY lines (chapter 8). -/

namespace Sys2Proof.Machine

/-- The place of a flag in the event flag word: byte 0 holds places 0 to 7, byte 1 places 8 and 9 (section 10.6). -/
def Flag.index : Flag → Fin 10
  | .completion => 0 | .change => 1 | .lockBroken => 2 | .leaseExpired => 3 | .deviceLost => 4
  | .deviceBack => 5 | .busFault => 6 | .busOk => 7 | .loadFault => 8 | .peer => 9

/-- The places of the nine edge flags: all but COMPLETION (R146). -/
def edgeFlags : FlagSet := 0b1111111110#10

/-- The flags as a master sees them: the edge flags, and COMPLETION true while the Completion Queue holds a record
(R146). -/
def PortUnit.shownFlags (u : PortUnit) : FlagSet :=
  (u.notify.flags &&& edgeFlags) ||| (if u.completions.isEmpty then 0#10 else 1#10)

/-- Some flag is set, or true, and enabled by the mask (R148). -/
def PortUnit.eventPending (u : PortUnit) : Bool := (u.shownFlags &&& u.notify.mask) != 0#10

/-- NOTIFY line `n` is asserted: a port routed to it has an event pending (R155). -/
def State.notifyAsserted (s : State) (n : Line) : Bool :=
  (List.finRange 4).any fun p => (s.port p).notify.route = n && (s.port p).eventPending

/-- A flag leaves a clear list of flags, as a new raise does to it (R149). -/
def ClearList.dropFlag (c : ClearList) (f : Flag) : ClearList :=
  match c with
  | .flags l => .flags (withoutBit l f.index)
  | c => c

/-- An entry leaves a clear list of entries (R152, R153). -/
def ClearList.dropEntry (c : ClearList) (e : EntryNo) : ClearList :=
  match c with
  | .entries l => .entries (withoutBit l e)
  | c => c

/-- An edge event raised in a port: an ACTIVE port's flag is set and leaves the clear list; for a HELD or OFFLINE
port the event is lost (R147). -/
def PortUnit.raise (u : PortUnit) (f : Flag) : PortUnit :=
  if u.state = .active then
    u.modNotify fun n => { n with flags := withBit n.flags f.index, clearList := n.clearList.dropFlag f }
  else u

/-- An edge event raised in one port (R147). -/
def State.raise (s : State) (p : Port) (f : Flag) : State := s.modPort p fun u => u.raise f

/-- An edge event raised in every port that `who` names (R147). -/
def State.raiseIn (s : State) (who : Port → Bool) (f : Flag) : State :=
  s.mapPorts fun p u => if who p then u.raise f else u

/-- An edge event raised in every ACTIVE port (R120, R146). -/
def State.raiseAll (s : State) (f : Flag) : State := s.raiseIn (fun _ => true) f

/-- PEER, for every ACTIVE port other than the target (R137, R141). -/
def State.raisePeer (s : State) (target : Port) : State := s.raiseIn (fun p => p != target) .peer

/-- The event flag word that two argument bytes name; positions that name no flag are ignored (R148, R150). -/
def flagsOfBytes (b0 b1 : Byte) : FlagSet := (b1.setWidth 2 ++ b0).setWidth 10

end Sys2Proof.Machine
end

