-- ==== Sys2Proof/Machine/Ops.lean ====
section
/-! DEFINITION. The shared operations of the scheduler, the Lock logic, the Poll Table and the directory: judging
heads and slots, taking heads, appending records, releasing locks, relaying health, giving write notices. -/

namespace Sys2Proof.Machine

/-! ### Entries -/

/-- Health follows from the consecutive-NACK count (R14). -/
def Entry.health (e : Entry) : Health :=
  if e.nackCount = 0 then .present else if e.nackCount = 3 then .absent else .suspect

/-- An entry is ABSENT exactly when its count is 3 (R14). -/
def Entry.absent (e : Entry) : Bool := e.nackCount = 3

/-- The entry's lock owner is a port other than `p` (R68). -/
def Entry.lockedByOther (e : Entry) (p : Port) : Bool := e.owner.any fun q => q != p

/-- Some window gives `p` read right (R12, R13). -/
def Entry.readable (e : Entry) (p : Port) : Bool := e.windows.any fun w => hasBit w.readSet p

/-- Some window gives `p` write right (R12). -/
def Entry.writable (e : Entry) (p : Port) : Bool := e.windows.any fun w => hasBit w.writeSet p

/-- The effective index of a request's index (R4). -/
def effectiveIndex (t : EntryType) (i : BitVec 16) : BitVec 16 :=
  match t with
  | .byte => 0
  | .indexed8 => i &&& 0x00FF#16
  | .indexed16 => i

/-- A new lock: owner, lease value, and the lease loaded (R69). -/
def Entry.lockTo (e : Entry) (p : Port) (lease : Nat) : Entry :=
  { e with owner := some p, leaseValue := lease, leaseRemaining := lease * 4 }

/-- The lease reloaded from the lease value as it stands (R69, R78, R79). -/
def Entry.reload (e : Entry) : Entry := { e with leaseRemaining := e.leaseValue * 4 }

/-- The lock ended and the entry free: the lease value stays (R68, R76). -/
def Entry.unlock (e : Entry) : Entry := { e with owner := none, leaseRemaining := 0 }

/-- The previous-release value that tells a release reason (R71). -/
def previousOf : ReleaseReason → PrevRelease
  | .initial => .initial | .normal => .normal | .expired => .expired | .broken => .broken | .reset => .reset

/-! ### Kinds and requests -/

/-- READ, WRITE, SEND, RECV and PROBE (R23). -/
def isBusKind : Kind → Bool
  | .read | .write | .send | .recv | .probe => true
  | .poll | .lock | .unlock | .brk | .fence => false

/-- The kinds whose head is DEFERRED by another port's lock (R58). -/
def defersOnLock : Kind → Bool
  | .read | .write | .send | .recv | .probe | .lock => true
  | .poll | .unlock | .brk | .fence => false

/-- The kinds whose head ends NO_DEVICE on an ABSENT entry (R51). -/
def asksHealth : Kind → Bool
  | .read | .write | .send | .recv | .lock | .unlock | .brk => true
  | .poll | .probe | .fence => false

/-- The entry a request names, with its number. -/
def State.requestEntry (s : State) (r : Request) : Option Entry := (entryOfByte r.entry).bind s.entry

/-- The record of a request that ends without a bus report (R52, R54, R72 to R74): count 0, no data, LOCK_LOST clear. A
FENCE's entry is 0 (R40). -/
def plainRecord (r : Request) (st : Status) (prev : Option PrevRelease) : Completion :=
  { tag := r.tag, kind := r.kind, entry := if r.kind = .fence then 0 else r.entry, status := st, lockLost := false,
    previousRelease := prev, count := 0, data := [] }

/-! ### Heads (R32, R49, R50) -/

/-- The port's head: the oldest request of its Request Queue. -/
def State.head (s : State) (p : Port) : Option Request := (s.port p).requests.head?

/-- A credit of the port is free: records and reserved credits together are fewer than 8 (R37, R38). -/
def PortUnit.creditFree (u : PortUnit) : Bool := u.completions.length + u.credits < 8

/-- The port's head is of a kind that defers, and its entry is locked by another port (R58). -/
def State.headBlocked (s : State) (p : Port) : Bool :=
  (s.head p).any fun r => defersOnLock r.kind && (s.requestEntry r).any fun e => e.lockedByOther p

/-- The head state of R32: DEFERRED while its entry is locked by another port, unless its outcome has been fixed as
LOCKED (R58); else CREDIT_WAIT or QUEUED by the port's credits. -/
def State.headState (s : State) (p : Port) : Option HeadState :=
  if (s.head p).isNone then none
  else if s.headBlocked p && !(s.port p).lockedMark then some .deferred
  else if (s.port p).creditFree then some .queued
  else some .creditWait

/-- A port's head judged against the lock on its entry (R58): on the first occasion it is deferred its timer starts at
0, or, with wait limit 0, its outcome is fixed as LOCKED. -/
def State.judgedPort (s : State) (p : Port) (u : PortUnit) : PortUnit :=
  match u.requests.head? with
  | none => u
  | some r =>
    if s.headBlocked p && !u.lockedMark then
      if r.waitLimit = 0 then { u with lockedMark := true }
      else if u.deferral.isNone then { u with deferral := some 0 }
      else u
    else u

/-- The head of port `p` judged again. -/
def State.judgeHead (s : State) (p : Port) : State := s.modPort p (s.judgedPort p)

/-- The heads of all ports judged again (R50). -/
def State.judgeHeads (s : State) : State := s.mapPorts s.judgedPort

/-- The head leaves the queue: its timer and mark go with it (R33, R49). -/
def PortUnit.dropHead (u : PortUnit) : PortUnit :=
  { u with requests := u.requests.tail, deferral := none, lockedMark := false }

/-- The head is taken: it leaves the queue and one credit is reserved (R33, R37). -/
def PortUnit.takeHead (u : PortUnit) : PortUnit := { u.dropHead with credits := u.credits + 1 }

/-- The head of `p` may be taken now: RUN, port ACTIVE, head QUEUED and not fixed as LOCKED (R50). -/
def State.readyHead (s : State) (p : Port) : Option Request :=
  if s.phase = .run ∧ (s.port p).state = .active ∧ s.headState p = some .queued ∧ (s.port p).lockedMark = false then
    s.head p
  else none

/-- The head of `p` is a QUEUED head of kind `k`, ready, naming an occupied slot that is not ABSENT: what the Lock
logic takes (R51). -/
def State.readyLockKind (s : State) (p : Port) (k : Kind) : Option (Request × EntryNo × Entry) :=
  match s.readyHead p with
  | none => none
  | some r =>
    match entryOfByte r.entry with
    | none => none
    | some e =>
      match s.entry e with
      | none => none
      | some en => if r.kind = k ∧ en.absent = false then some (r, e, en) else none

/-- How the head of `p` ends without the bus, if it does (R51, R52, R58): LOCKED when so fixed, NO_DEVICE on an ABSENT
entry, BUS_FAULT on a FAULTED bus; each needs a free credit. -/
def State.endStatus (s : State) (p : Port) : Option Status :=
  if s.phase = .run ∧ (s.port p).state = .active ∧ s.headState p = some .queued then
    match s.head p with
    | none => none
    | some r =>
      if (s.port p).lockedMark then some .locked
      else if asksHealth r.kind && (s.requestEntry r).any Entry.absent then some .noDevice
      else if isBusKind r.kind && s.engine.busState = .faulted then some .busFault
      else none
  else none

/-! ### Completion records -/

/-- A ranked record put before the first of higher rank. -/
def insertByRank (x : Nat × Completion) : List (Nat × Completion) → List (Nat × Completion)
  | [] => [x]
  | y :: ys => if x.1 < y.1 then x :: y :: ys else y :: insertByRank x ys

/-- Records in the order of their ranks. -/
def sortByRank : List (Nat × Completion) → List (Nat × Completion)
  | [] => []
  | x :: xs => insertByRank x (sortByRank xs)

/-- The order in which the records that one step appends to one queue join it: one record as it is; several in an
order the manual leaves open, by free ranks (log 9). `n` tells one use of the free ranks from another. -/
def arrange (n : Nat) (rs : List Completion) : List Completion :=
  if rs.length < 2 then rs
  else (sortByRank ((List.range rs.length).map (Config.freeRank n) |>.zip rs)).map (·.2)

/-- The records among `recs` that go to port `p`. -/
def recordsFor (recs : List (Port × Completion)) (p : Port) : List Completion :=
  (recs.filter fun x => x.1 = p).map (·.2)

/-- Records appended to their ports' Completion Queues, each consuming a reserved credit (R39). -/
def State.append (s : State) (recs : List (Port × Completion)) : State :=
  { (s.mapPorts fun p u =>
      { u with completions := u.completions ++ arrange (4 * s.freeCount + p.val) (recordsFor recs p),
               credits := u.credits - (recordsFor recs p).length }) with
    freeCount := if 2 ≤ recs.length then s.freeCount + 1 else s.freeCount }

/-! ### The Poll Table (chapter 5) -/

/-- The record of a poll that ends (R98). -/
def pollRecord (q : Poll) (st : Status) : Completion :=
  { tag := q.tag, kind := .poll, entry := BitVec.ofNat 8 q.entry.val, status := st, lockLost := false,
    previousRelease := none, count := q.remaining, data := q.lastByte.toList }

/-- What judging does to a slot: it is kept, or its poll ends. -/
inductive Verdict where
  | keep (q : Poll)
  | ends (st : Status)
deriving DecidableEq, Repr

/-- The entry of a poll is ABSENT. -/
def State.pollAbsent (s : State) (q : Poll) : Bool := (s.entry q.entry).any Entry.absent

/-- The entry of a poll is locked by a port other than the poll's own. -/
def State.pollLocked (s : State) (q : Poll) : Bool := (s.entry q.entry).any fun e => e.lockedByOther q.port

/-- A DUE slot judged (R90, R93): ABSENT, FAULTED, locked by another port, or still a candidate. -/
def State.judgeDue (s : State) (q : Poll) : Verdict :=
  if s.pollAbsent q then .ends .noDevice
  else if s.engine.busState = .faulted then .ends .busFault
  else if s.pollLocked q then
    if q.waitLimit = 0 then .ends .locked
    else .keep { q with state := .blocked, blockTimer := some (q.blockTimer.getD 0) }
  else .keep { q with state := .due }

/-- A slot judged against the state as it stands: DUE slots by R90, BLOCKED slots by R94; WAITING and RUNNING slots
are left. -/
def State.judgeSlot (s : State) (q : Poll) : Verdict :=
  match q.state with
  | .due => s.judgeDue q
  | .blocked => if s.pollLocked q then .keep q else s.judgeDue q
  | .waiting => .keep q
  | .running => .keep q

/-- The slot after judging: free when its poll ends. -/
def State.judgedSlot (s : State) (q : Option Poll) : Option Poll :=
  q.bind fun q => match s.judgeSlot q with
    | .keep q' => some q'
    | .ends _ => none

/-- The record of a slot whose poll ends when judged. -/
def State.judgedRecord (s : State) (q : Option Poll) : Option (Port × Completion) :=
  q.bind fun q => match s.judgeSlot q with
    | .keep _ => none
    | .ends st => some (q.port, pollRecord q st)

/-- The records of all polls that end when the table is judged. -/
def State.pollEnds (s : State) : List (Port × Completion) :=
  (List.finRange 6).filterMap fun k => s.judgedRecord (s.poll k)

/-- What every change of a lock, of health or of the bus state brings about in the same act (R50, R77, R90, R94): heads
and slots are judged against the state as it now stands, and the step's records `recs`, with those of the polls that
end, are appended. -/
def State.settle (s : State) (recs : List (Port × Completion)) : State :=
  (s.judgeHeads.mapPolls s.judgedSlot).append (recs ++ s.pollEnds)

/-! ### Locks (chapter 4) -/

/-- The port's LOCK head takes part in an offer of entry `e` (R60, R76): it is DEFERRED on the entry and a credit of
its port is free. The value is its deferral timer. -/
def State.lockWaiter (s : State) (e : EntryNo) (p : Port) : Option Nat :=
  match s.head p with
  | none => none
  | some r =>
    if r.kind = .lock ∧ entryOfByte r.entry = some e ∧ s.headState p = some .deferred
        ∧ (s.port p).creditFree = true then (s.port p).deferral
    else none

/-- The better of two waiters: the larger timer, ties to the one found first (R60). -/
def betterWaiter (best : Option (Port × Nat)) (p : Port) (t : Option Nat) : Option (Port × Nat) :=
  match t, best with
  | none, b => b
  | some t, none => some (p, t)
  | some t, some (q, u) => if u < t then some (p, t) else some (q, u)

/-- The port whose LOCK head an offer picks (R60, R76): the largest deferral timer, ties to the lower port number. -/
def State.pickHeir (s : State) (e : EntryNo) : Option Port :=
  ((List.finRange 4).foldl (fun b p => betterWaiter b p (s.lockWaiter e p)) none).map (·.1)

/-- Hand-over of entry `e` to the DEFERRED LOCK head of `p` (R76, step 3). -/
def State.handOver (s : State) (e : EntryNo) (p : Port) (r : Request) : State :=
  (s.modEntry e fun en => en.lockTo p r.lease.toNat).modPort p PortUnit.takeHead

/-- A release of entry `e`'s lock (R76), as one act: the reason is written; unless the entry is ABSENT the lock is
offered to the DEFERRED LOCK heads; it goes to the one picked, or the entry becomes free. With it, the record of a
hand-over. -/
def State.release (s : State) (e : EntryNo) (reason : ReleaseReason) : State × List (Port × Completion) :=
  let s1 := s.modEntry e fun en => { en with releaseReason := reason }
  if (s.entry e).any Entry.absent then (s1.modEntry e Entry.unlock, [])
  else
    match s1.pickHeir e with
    | none => (s1.modEntry e Entry.unlock, [])
    | some p =>
      match s1.head p with
      | none => (s1.modEntry e Entry.unlock, [])
      | some r => (s1.handOver e p r, [(p, plainRecord r .ok (some (previousOf reason)))])

/-- The lock-lost mark (R63, R84): set when `p` loses entry `e`'s lock by expiry or BREAK while its transaction on the
entry, owned at grant, is on the bus. -/
def State.markLockLost (s : State) (e : EntryNo) (p : Port) : State :=
  match s.scheduler.current with
  | none => s
  | some c =>
    if c.slot = none ∧ c.port = p ∧ c.entry = e ∧ c.ownedAtGrant = true then
      s.setCurrent (some { c with lockLost := true })
    else s

/-- The lease of entry `e` reloaded if `p` owns its lock (R79). -/
def State.reloadIfOwner (s : State) (e : EntryNo) (p : Port) : State :=
  s.modEntry e fun en => if en.owner = some p then en.reload else en

/-! ### Health and write notices -/

/-- The consecutive-NACK count after an address outcome (R16). -/
def countAfter (c : Fin 4) : AddressOutcome → Fin 4
  | .nack => if c = 3 then 3 else c + 1
  | .ack => 0
  | .noOutcome => c

/-- An address outcome applied to entry `e` (R16): the count moves; DEVICE_LOST goes to the watchers when it reaches 3,
DEVICE_BACK when it leaves 3. -/
def State.relayHealth (s : State) (e : EntryNo) (out : AddressOutcome) : State :=
  match s.entry e with
  | none => s
  | some en =>
    let s1 := s.modEntry e fun x => { x with nackCount := countAfter x.nackCount out }
    if en.nackCount ≠ 3 ∧ countAfter en.nackCount out = 3 then s1.raiseIn (hasBit en.watchSet) .deviceLost
    else if en.nackCount = 3 ∧ countAfter en.nackCount out ≠ 3 then s1.raiseIn (hasBit en.watchSet) .deviceBack
    else s1

/-- A write notice of entry `e` reaching a watching port other than the writer (R153). -/
def PortUnit.notice (u : PortUnit) (e : EntryNo) : PortUnit :=
  (u.modNotify fun n => { n with changed := withBit n.changed e, clearList := n.clearList.dropEntry e }).raise .change

/-- A write notice of entry `e` from port `writer` (R153). -/
def State.writeNotice (s : State) (e : EntryNo) (writer : Port) : State :=
  match s.entry e with
  | none => s
  | some en => s.mapPorts fun p u => if hasBit en.watchSet p ∧ p ≠ writer then u.notice e else u

end Sys2Proof.Machine
end

