-- ==== Sys2Proof/Machine/Engine.lean ====
section
/-! DEFINITION. The Bus Engine's side of the management bus (chapter 6): the points of a transaction, what each sample
of MDA does to it, recovery sequences, and the report. -/

namespace Sys2Proof.Machine

/-! ### The elements of a transaction (R105, R106, R108) -/

/-- The bits of a byte, most significant bit first (R106, R125). -/
def bitsOfByte (b : Byte) : List Bool :=
  [b.getLsbD 7, b.getLsbD 6, b.getLsbD 5, b.getLsbD 4, b.getLsbD 3, b.getLsbD 2, b.getLsbD 1, b.getLsbD 0]

/-- The byte that bits make, the first the most significant (R106, R125). -/
def byteOfBits (bits : List Bool) : Byte :=
  bits.foldl (fun acc b => (acc <<< 1) ||| (if b then 1#8 else 0#8)) 0#8

/-- A byte the engine sends: 8 bits and the device's acknowledge bit (R106). -/
def sendByte (b : Byte) (what : Acked) : List WireSlot := (bitsOfByte b).map .sendBit ++ [.ack what]

/-- A byte the engine receives: 8 bits and its own acknowledge bit, ACK unless it is the last (R106). -/
def receiveByte (last : Bool) : List WireSlot := List.replicate 8 .recvBit ++ [.ownAck (!last)]

/-- `n` bytes received, ACK after each but the last (R108). -/
def receiveBytes : Nat → List WireSlot
  | 0 => []
  | n + 1 => receiveByte (n = 0) ++ receiveBytes n

/-- The address byte: the 7-bit address and the direction bit, 0 for write and 1 for read (R106). -/
def addressByte (a : BitVec 7) (reading : Bool) : Byte := a ++ (if reading then 1#1 else 0#1)

/-- The index bytes of an entry type: none, one, or two with the high byte first (R4, R106). -/
def indexBytesOf (t : EntryType) (i : BitVec 16) : List Byte :=
  match t with
  | .byte => []
  | .indexed8 => [i.setWidth 8]
  | .indexed16 => [i.extractLsb' 8 8, i.setWidth 8]

/-- The index bytes and data bytes sent, each with its acknowledge bit. -/
def sendAll (bs : List Byte) (what : Acked) : List WireSlot := bs.flatMap fun b => sendByte b what

/-- The points of a transaction of each shape, in order (R108). -/
def wireSlots (sh : Shape) (a : BitVec 7) (idx : List Byte) (n : Nat) (data : List Byte) : List WireSlot :=
  match sh with
  | .read =>
    [.start] ++ sendByte (addressByte a false) .address ++ sendAll idx .index ++ [.repStart]
      ++ sendByte (addressByte a true) .address ++ receiveBytes n ++ [.stop]
  | .write => [.start] ++ sendByte (addressByte a false) .address ++ sendAll idx .index ++ sendAll data .data ++ [.stop]
  | .send => [.start] ++ sendByte (addressByte a false) .address ++ sendAll data .data ++ [.stop]
  | .recv => [.start] ++ sendByte (addressByte a true) .address ++ receiveBytes n ++ [.stop]
  | .probe => [.start] ++ sendByte (addressByte a false) .address ++ [.stop]

/-- The number of clock pulses of a list of points: START, repeated START and STOP are not counted (R108). -/
def clockPulses (l : List WireSlot) : Nat :=
  l.countP fun w => match w with
    | .start | .repStart | .stop => false
    | .sendBit _ | .ack _ | .recvBit | .ownAck _ => true

/-- A transaction at its start (R107). -/
def Transaction.fresh (req : Requester) (sh : Shape) (a : BitVec 7) (idx : List Byte) (n : Nat) (data : List Byte) :
    Transaction :=
  { requester := req, address := a, indexBytes := idx, shape := sh, length := n, data := data, indexAcked := 0,
    dataAcked := 0, received := [], slots := wireSlots sh a idx n data, shiftIn := [], refusal := none,
    outcome := none }

/-- The shape of a bus kind (R108). -/
def shapeOf : Kind → Shape
  | .read => .read | .write => .write | .send => .send | .recv => .recv | .probe => .probe
  | .poll | .lock | .unlock | .brk | .fence => .read

/-- The transaction of a request on an entry (R62, R108). -/
def requestTransaction (r : Request) (en : Entry) : Transaction :=
  match r.kind with
  | .read =>
    .fresh .scheduler .read en.address (indexBytesOf en.type (effectiveIndex en.type r.index)) r.length.toNat []
  | .write =>
    .fresh .scheduler .write en.address (indexBytesOf en.type (effectiveIndex en.type r.index)) r.length.toNat r.data
  | .send => .fresh .scheduler .send en.address [] 1 r.data
  | .recv => .fresh .scheduler .recv en.address [] 1 []
  | .probe | .poll | .lock | .unlock | .brk | .fence => .fresh .scheduler .probe en.address [] 0 []

/-- The transaction of a poll iteration: a READ of length 1 at the slot's index (R95, R108). -/
def pollTransaction (q : Poll) (en : Entry) : Transaction :=
  .fresh .scheduler .read en.address (indexBytesOf en.type q.index) 1 []

/-! ### Sampling -/

/-- The engine has released MDA at this point and relies on it being high (R104, R114). -/
def reliesOnHigh : WireSlot → Bool
  | .sendBit b => b
  | .repStart | .stop => true
  | .start | .ack _ | .recvBit | .ownAck _ => false

/-- The moments of a point on the wires, in order (R104, R105): the low half before the engine releases MCK, with MDA set
for the point; until it reads MCK high, a stretch included; the sample of MDA in the high half; the rest of the high half;
and its end. The last two are those of a point that its sample lets the engine pass. -/
inductive WireMoment where
  | low | rising | sampled | high | ended
deriving DecidableEq, Repr

/-- The engine releases MDA at this moment of the point; elsewhere it pulls it low (R105, R106). It holds a bit's level
throughout. A START and a repeated START pull MDA low once it is read high; a STOP holds it low until MCK is read high and
then releases it. -/
def releasesMda : WireMoment → WireSlot → Bool
  | _, .sendBit b => b
  | _, .ownAck ack => !ack
  | _, .ack _ | _, .recvBit => true
  | .low, .stop | .rising, .stop => false
  | .sampled, .stop | .high, .stop | .ended, .stop => true
  | .low, _ | .rising, _ | .sampled, _ => true
  | .high, _ | .ended, _ => false

/-- The engine releases MCK at this moment of the point; elsewhere it pulls it low (R104, R105). A clock pulse and a
repeated START release it from low and pull it low again after the high half. A START begins with MCK released and pulls
it low at its end. A STOP releases it from low and leaves it released. -/
def releasesMck : WireMoment → WireSlot → Bool
  | .low, w => w = .start
  | .ended, w => w = .stop
  | .rising, _ | .sampled, _ | .high, _ => true

/-- The status of a refusal at an acknowledge bit (R109). -/
def refusalOf : Acked → BusStatus
  | .address => .nackAddr | .index => .nackData | .data => .nackData

/-- An acknowledge bit sampled as ACK (R110): the progress it makes. -/
def Transaction.acked (t : Transaction) : Acked → Transaction
  | .address => t
  | .index => { t with indexAcked := t.indexAcked + 1 }
  | .data => { t with dataAcked := t.dataAcked + 1 }

/-- One bit of a received byte; the eighth completes the byte (R106, R110). -/
def Transaction.shift (t : Transaction) (b : Bool) : Transaction :=
  if t.shiftIn.length < 7 then { t with shiftIn := t.shiftIn ++ [b] }
  else { t with received := t.received ++ [byteOfBits (t.shiftIn ++ [b])], shiftIn := [] }

/-- One sample of MDA at the point the transaction has reached, after its first START (R104 to R106, R109, R114). A low
level where the engine relies on high is a stuck line; a NACK leaves only the STOP; the STOP's release ends the
transaction. -/
def Transaction.sample (t : Transaction) (high : Bool) : Transaction :=
  match t.slots with
  | [] => t
  | w :: rest =>
    if reliesOnHigh w && !high then { t with outcome := some .stuck }
    else
      match w with
      | .start => { t with slots := rest }
      | .sendBit _ => { t with slots := rest }
      | .ack what => if high then { t with slots := [.stop], refusal := some (refusalOf what) }
                     else { t.acked what with slots := rest }
      | .repStart => { t with slots := rest }
      | .recvBit => { t.shift high with slots := rest }
      | .ownAck _ => { t with slots := rest }
      | .stop => { t with slots := [], outcome := some (t.refusal.getD .ok) }

/-- The transaction waits for its first START (R115, R116). -/
def Transaction.atStart (t : Transaction) : Bool := t.slots.head? = some .start

/-- A recovery sequence at its start (R117). -/
def Recovery.fresh (c : RecoveryCause) : Recovery := { cause := c, pulses := 0, stage := .settling, outcome := none }

/-- One sample of MDA in a recovery sequence (R117). -/
def Recovery.sample (r : Recovery) (high : Bool) : Recovery :=
  match r.stage with
  | .settling => if high then { r with stage := .stopping } else { r with stage := .pulsing }
  | .pulsing =>
    if high then { r with pulses := r.pulses + 1, stage := .stopping }
    else if r.pulses + 1 < 9 then { r with pulses := r.pulses + 1 }
    else { r with pulses := r.pulses + 1, outcome := some false }
  | .stopping =>
    if high then { r with outcome := some true }
    else if r.pulses < 9 then { r with stage := .pulsing }
    else { r with outcome := some false }

/-- The engine is driving the bus: a recovery or a transaction runs and has not reached its outcome. -/
def Engine.driving (e : Engine) : Bool :=
  match e.recovery with
  | some r => r.outcome.isNone
  | none => e.transaction.any fun t => t.outcome.isNone

/-- One sample of MDA: it goes to the recovery that runs, or else to the transaction; MDA low before the first START
begins a recovery with cause blocked START (R115). -/
def Engine.sample (e : Engine) (high : Bool) : Engine :=
  match e.recovery with
  | some r => { e with recovery := some (r.sample high) }
  | none =>
    match e.transaction with
    | none => e
    | some t =>
      if t.atStart && !high then { e with recovery := some (Recovery.fresh .blockedStart) }
      else { e with transaction := some (t.sample high) }

/-- Samples given to the engine, oldest first, until the work it does has reached its outcome; with the rest. -/
def Engine.feed : List Bool → Engine → Engine × List Bool
  | [], e => (e, [])
  | b :: bs, e => if e.driving then Engine.feed bs (e.sample b) else (e, b :: bs)

/-- The engine reads the wires (R113): a sample means that MCK was read high, which ends a stretch. -/
def Engine.reads (e : Engine) (samples : List Bool) : Engine × List Bool :=
  if e.driving && !samples.isEmpty then Engine.feed samples { e with stretch := none } else (e, samples)

/-- Whether a stretch stands after the engine's reading (R113, R116): a fresh one starts at 0. -/
def Engine.stretchAfter (e : Engine) (mckLow : Bool) : Engine :=
  { e with stretch := if e.driving && mckLow then some (e.stretch.getD 0) else none }

/-- The part's engine goes on with samples left over from the work before (log 5). -/
def State.busRuns (s : State) (samples : List Bool) (mckLow : Bool) : State :=
  s.setEngine ((s.engine.reads samples).1.stretchAfter mckLow)

/-- The point the engine has come to: a recovery's clock pulses are received bits with MDA released and its STOP is the
bus condition of R105 (R104, R117; log 22); before them it has both lines released and waits for MCK, at no point. -/
def Engine.point (e : Engine) : Option WireSlot :=
  match e.recovery with
  | some r =>
    match r.stage with
    | .settling => none
    | .pulsing => some .recvBit
    | .stopping => some .stop
  | none => e.transaction.bind fun t => t.slots.head?

/-- MDA as the engine drives it at a moment of the point it has come to: true when released. An engine that is idle,
FAULTED, or has its outcome has released both lines (R103, R105, R114). -/
def Engine.mdaAt (e : Engine) (m : WireMoment) : Bool := !e.driving || e.point.all (releasesMda m)

/-- MCK as the engine drives it at a moment of the point it has come to: true when released (R103 to R105, R114). -/
def Engine.mckAt (e : Engine) (m : WireMoment) : Bool := !e.driving || e.point.all (releasesMck m)

/-- MDA as the engine drives it while it waits to read MCK high at the point it has come to (R105, R113). -/
def Engine.mdaReleased (e : Engine) : Bool := e.mdaAt .rising

/-- Half a bus clock period, in nanoseconds (R104). -/
def halfPeriodNs : BusSpeed → Nat
  | .khz100 => 5000
  | .khz400 => 1250

/-! ### Reports (R109 to R112) -/

/-- A report of the Bus Engine to its requester (R112). -/
structure Report where
  status : BusStatus
  count : Nat
  data : List Byte
deriving DecidableEq, Repr

/-- The count a transaction reports (R109 to R111): the progress it made. -/
def Transaction.progress (t : Transaction) : Nat :=
  match t.shape with
  | .read | .recv => t.received.length
  | .write | .send => t.dataAcked
  | .probe => 0

/-- The report of a transaction that ends with status `st`: data are handed back with OK alone (R110, R111). -/
def Transaction.report (t : Transaction) (st : BusStatus) : Report :=
  { status := st, count := t.progress, data := if st = .ok then t.received else [] }

/-- The address outcome of a report (R15, R112). -/
def outcomeOf : BusStatus → AddressOutcome
  | .ok => .ack | .nackData => .ack | .nackAddr => .nack | .stuck => .noOutcome

/-- The status code a report's status gives a record (R44, R97). -/
def statusOf : BusStatus → Status
  | .ok => .ok | .nackAddr => .nackAddr | .nackData => .nackData | .stuck => .busStuck

/-- The engine after taking on a transaction: BUSY (R107). -/
def Engine.start (e : Engine) (t : Transaction) : Engine :=
  { e with busState := .busy, transaction := some t, recovery := none, stretch := none }

/-- The engine READY, with nothing in progress (R112, R117). -/
def Engine.idle (e : Engine) : Engine :=
  { e with busState := .ready, transaction := none, recovery := none, stretch := none }

/-- The engine RECOVERING with a fresh recovery sequence (R118, R119, R121); a retry discards the retry timer. -/
def Engine.recover (e : Engine) (c : RecoveryCause) : Engine :=
  { e with busState := .recovering, transaction := none, recovery := some (Recovery.fresh c), stretch := none,
           retry := none }

/-- The bus enters FAULTED (R119, R120): the retry timer starts at 0, the fault indication is set, and BUS_FAULT is
raised when a fault episode begins in CONFIG or RUN. -/
def State.enterFaulted (s : State) : State :=
  let s1 := s.setEngine { s.engine with busState := .faulted, transaction := none, recovery := none, stretch := none,
                                        retry := some 0, fault := true }
  if s.engine.fault = false ∧ s.phase ≠ .loading then s1.raiseAll .busFault else s1

end Sys2Proof.Machine
end

