-- ==== Sys2Proof/Machine/Formats.lean ====
section
/-! DEFINITION. Byte layouts and code encodings (chapter 10): what masters see. -/

namespace Sys2Proof.Machine

/-! ### Codes (section 10.7) -/

/-- Request kind codes. -/
def kindCode : Kind → Byte
  | .read => 0x00 | .write => 0x01 | .send => 0x02 | .recv => 0x03 | .poll => 0x04 | .probe => 0x05 | .lock => 0x06
  | .unlock => 0x07 | .brk => 0x08 | .fence => 0x09

/-- The kind a byte names, if it names one (R173). -/
def kindOfByte (b : Byte) : Option Kind :=
  [Kind.read, .write, .send, .recv, .poll, .probe, .lock, .unlock, .brk, .fence].find? fun k => kindCode k = b

/-- Result codes. -/
def resultCode : ResultCode → Byte
  | .done => 0x00 | .badCommand => 0x01 | .shortFrame => 0x02 | .notReady => 0x03 | .wrongPhase => 0x04
  | .notPermitted => 0x05 | .queueFull => 0x06 | .dupTag => 0x07 | .malformed => 0x08 | .noEntry => 0x09
  | .badKind => 0x0A | .badRange => 0x0B | .denied => 0x0C | .notFound => 0x0D | .inFlight => 0x0E
  | .notOwner => 0x0F | .empty => 0x10 | .held => 0x11 | .dirConflict => 0x12 | .badPort => 0x13 | .noCode => 0xFF

/-- Status codes. -/
def statusCode : Status → Byte
  | .ok => 0x00 | .nackAddr => 0x01 | .nackData => 0x02 | .noDevice => 0x03 | .busStuck => 0x04 | .busFault => 0x05
  | .locked => 0x06 | .exhausted => 0x07 | .aborted => 0x08 | .notHeld => 0x09 | .outranked => 0x0A

/-- Previous-release codes; 0 when the record carries no value. -/
def previousCode : Option PrevRelease → Byte
  | none => 0 | some .initial => 1 | some .normal => 2 | some .expired => 3 | some .broken => 4 | some .reset => 5
  | some .alreadyOwned => 6

/-- Load fault codes. -/
def loadFaultCode : LoadFault → Byte
  | .noFault => 0x00 | .noMemory => 0x01 | .busError => 0x02 | .badSignature => 0x03 | .badVersion => 0x04
  | .badHeader => 0x05 | .badRecord => 0x06 | .order => 0x07 | .dupAddress => 0x08 | .tooLong => 0x09
  | .checksum => 0x0A

/-- Command codes. -/
def commandCode : Command → Byte
  | .status => 0x00 | .submit => 0x10 | .fetch => 0x11 | .cancel => 0x12 | .events => 0x20 | .ackEvents => 0x21
  | .setMask => 0x22 | .changes => 0x23 | .watch => 0x24 | .unwatch => 0x25 | .renew => 0x30 | .dirRead => 0x31
  | .dirWrite => 0x40 | .dirClear => 0x41 | .seal => 0x42 | .hold => 0x50 | .release => 0x51 | .restart => 0x5F

/-- The command a byte names, if it names one (R129). -/
def commandOfByte (b : Byte) : Option Command :=
  [Command.status, .submit, .fetch, .cancel, .events, .ackEvents, .setMask, .changes, .watch, .unwatch, .renew,
    .dirRead, .dirWrite, .dirClear, .seal, .hold, .release, .restart].find? fun c => commandCode c = b

/-- Phase codes. -/
def phaseCode : Phase → Byte
  | .loading => 0 | .config => 1 | .run => 2

/-- Bus state codes. -/
def busStateCode : BusState → Byte
  | .ready => 0x00 | .busy => 0x01 | .recovering => 0x02 | .faulted => 0x03

/-- Hold origin codes. -/
def originCode : Option HoldOrigin → Byte
  | none => 0xFF | some .self => 0x04 | some (.port p) => BitVec.ofNat 8 p.val

/-- Reset cause codes. -/
def causeCode : ResetCause → Byte
  | .powerOn => 0x00 | .pin => 0x01 | .restart => 0x02 | .hold => 0x03

/-- Entry type codes. -/
def typeCode : EntryType → Byte
  | .byte => 0x00 | .indexed8 => 0x01 | .indexed16 => 0x02

/-- The type a byte names, if it names one. -/
def typeOfByte (b : Byte) : Option EntryType :=
  if b = 0x00 then some .byte else if b = 0x01 then some .indexed8 else if b = 0x02 then some .indexed16 else none

/-- Health codes. -/
def healthCode : Health → Byte
  | .present => 0x00 | .suspect => 0x01 | .absent => 0x02

/-! ### Numbers and ports (R172) -/

/-- A number below 256 as a byte. -/
def byteOf (n : Nat) : Byte := BitVec.ofNat 8 n

/-- A 16-bit number in two bytes, high byte first (R172). -/
def twoBytes (n : Nat) : List Byte := [byteOf (n / 256), byteOf (n % 256)]

/-- A port that may be absent: 0xFF means none (R172). -/
def portOrNone : Option Port → Byte
  | none => 0xFF | some p => byteOf p.val

/-- One bit of a byte set or clear. -/
def bitAt (b : Bool) (i : Nat) : Byte := if b then BitVec.twoPow 8 i else 0

/-! ### Status bytes (section 10.2) -/

/-- The frame status byte of port `p` (R126, section 10.2). -/
def State.frameStatus (s : State) (p : Port) : Byte :=
  let u := s.port p
  bitAt s.engine.fault 6 ||| bitAt (u.requests.length = 8) 5 ||| bitAt (!u.completions.isEmpty) 4
    ||| bitAt u.eventPending 3 ||| bitAt (u.state = .held) 2 ||| phaseCode s.phase

/-- The extended status of port `p` (R135, section 10.2). -/
def State.extendedStatus (s : State) (p : Port) : List Byte :=
  let u := s.port p
  [phaseCode s.phase ||| bitAt (u.state = .held) 2 ||| bitAt s.engine.fault 3,
   byteOf u.level.val, busStateCode s.engine.busState, originCode u.origin, causeCode u.resetCause,
   resultCode u.lastResult, byteOf u.requests.length, byteOf u.completions.length, byteOf u.credits,
   byteOf (s.parked p), loadFaultCode s.loader.fault, byteOf s.occupied]

/-! ### Records (sections 10.4 and 10.5) -/

/-- The length field of a completion record: 8 plus the number of data bytes (R40). -/
def Completion.length (r : Completion) : Nat := 8 + r.data.length

/-- A completion record as FETCH presents it (section 10.4). -/
def Completion.bytes (r : Completion) : List Byte :=
  [byteOf r.length, r.tag, kindCode r.kind, r.entry, statusCode r.status,
   bitAt r.lockLost 7 ||| previousCode r.previousRelease] ++ twoBytes r.count ++ r.data

/-- A window in an entry record (section 10.5). -/
def Window.bytes (w : Window) : List Byte :=
  [w.first.extractLsb' 8 8, w.first.setWidth 8, w.last.extractLsb' 8 8, w.last.setWidth 8, w.writeSet ++ w.readSet]

/-- The entry record of an occupied slot (section 10.5). -/
def Entry.recordBytes (e : Entry) (n : Byte) : List Byte :=
  [0xE0, n, e.address.setWidth 8, typeCode e.type, byteOf e.lockLevel.val, byteOf e.windows.length]
    ++ e.windows.flatMap Window.bytes

/-- The 6-byte extension of the DIR_READ response (section 10.5). -/
def Entry.extensionBytes (e : Entry) : List Byte :=
  [healthCode e.health, byteOf e.nackCount.val, portOrNone e.owner] ++ twoBytes e.leaseRemaining
    ++ [e.watchSet.setWidth 8]

/-- The DIR_READ response for one slot (R21, section 10.5): an empty slot, and a number that names no slot, are
presented as an empty record that repeats the number. -/
def dirReadBytes (slots : Vector (Option Entry) 32) (n : Byte) : List Byte :=
  match (entryOfByte n).bind fun e => slots[e] with
  | some e => e.recordBytes n ++ e.extensionBytes
  | none => [0x00, n, 0x00, 0x00, 0x00, 0x00, 0xFF, 0x00, 0xFF, 0x00, 0x00, 0x00]

/-- The event flag word (section 10.6). -/
def flagBytes (f : FlagSet) : List Byte := [f.setWidth 8, (f.extractLsb' 8 2).setWidth 8]

/-- The Changed Set, entries E0 to E7 in the first byte (section 10.6). -/
def changedBytes (c : EntrySet) : List Byte :=
  [c.extractLsb' 0 8, c.extractLsb' 8 8, c.extractLsb' 16 8, c.extractLsb' 24 8]

/-! ### Frame output (R125 to R127, R144) -/

/-- The bytes of a response, shifted out from byte 2; DIR_READ selects its slot by byte 1 in (R21, R45, R127). -/
def Response.bytes (r : Response) (byte1 : Byte) : List Byte :=
  match r with
  | .absent => []
  | .status bs => bs
  | .record none => [0x00]
  | .record (some c) => c.bytes
  | .directory slots => dirReadBytes slots byte1
  | .flags f => flagBytes f
  | .changed c => changedBytes c

/-- Byte `n` out of a frame in progress, when byte 1 in is `byte1` (R126, R127): the frame status byte, the last-result
byte, the response, and 0xFF beyond it. -/
def Frame.byteOut (f : Frame) (byte1 : Byte) (n : Nat) : Byte :=
  match n with
  | 0 => f.statusByte
  | 1 => (f.lastResult.map resultCode).getD 0xFF
  | k + 2 => ((f.response.bytes byte1)[k]?).getD 0xFF

/-- Byte `n` out on the port's data-out line, counted from select fall; none is high-impedance (R125, R144). A frame
discarded by a restart shifts 0xFF; select low without a frame on a port that is no longer OFFLINE drives a free value
(log 8). -/
def State.dataOut (s : State) (p : Port) (byte1 : Byte) (n : Nat) : Option Byte :=
  if (s.port p).state = .offline then none
  else
    match (s.port p).frame with
    | .idle => none
    | .opened f => some (f.byteOut byte1 n)
    | .discarded => some 0xFF
    | .ignored => some (Config.freeDataOut (4 * s.freeCount + p.val) n)

/-- Bit `k` out on the port's data-out line, counted from select fall: the first rising clock edge reads bit 0. Each
byte goes out most significant bit first (R125). -/
def State.dataOutBit (s : State) (p : Port) (byte1 : Byte) (k : Nat) : Option Bool :=
  (s.dataOut p byte1 (k / 8)).map fun b => b.getLsbD (7 - k % 8)

end Sys2Proof.Machine
end

