-- ==== Sys2Proof/Machine/Operands.lean ====
section
/-! DEFINITION. Decoding what arrives: the bytes of a frame, the request record, the entry record, the configuration
list; the access check; and the port-level handling of every frame end. -/

namespace Sys2Proof.Machine

/-! ### Whole bytes (R125, R128) -/

/-- The whole bytes in a sequence of bits, most significant bit first; bits past the last whole byte are discarded. -/
def wholeBytes : List Bool → List Byte
  | a :: b :: c :: d :: e :: f :: g :: h :: rest => byteOfBits [a, b, c, d, e, f, g, h] :: wholeBytes rest
  | _ => []

/-- A 16-bit number from two bytes, high byte first (R172). -/
def wordOf (hi lo : Byte) : BitVec 16 := hi ++ lo

/-! ### The request record (section 10.3, R24, R27, R173) -/

/-- The tail of a kind, if the header and the number of tail bytes suit the kind (R24, R27); it fills the fields the
kind carries. -/
def decodeTail (k : Kind) (r : Request) (tail : List Byte) : Option Request :=
  match k with
  | .read => if 1 ≤ r.length.toNat ∧ r.length.toNat ≤ 16 ∧ tail = [] then some r else none
  | .write =>
    if 1 ≤ r.length.toNat ∧ r.length.toNat ≤ 16 ∧ tail.length = r.length.toNat then some { r with data := tail }
    else none
  | .send => if tail.length = 1 then some { r with data := tail } else none
  | .poll =>
    match tail with
    | [m, v, ch, cl, iv] =>
      if 1 ≤ (wordOf ch cl).toNat ∧ (wordOf ch cl).toNat ≤ 4096 ∧ r.condition.toNat ≤ 1 then
        some { r with mask := m, matchByte := v, count := wordOf ch cl, interval := iv }
      else none
    | _ => none
  | .lock | .brk =>
    match tail with
    | [l] => if l = 0 then none else some { r with lease := l }
    | _ => none
  | .recv | .probe | .unlock | .fence => if tail = [] then some r else none

/-- The request record of a SUBMIT frame's argument bytes; none when the well-formed step fails (R27). -/
def decodeRequest (args : List Byte) : Option Request :=
  match args with
  | tag :: kind :: entry :: wait :: ih :: il :: len :: cond :: tail =>
    match kindOfByte kind with
    | none => none
    | some k =>
      decodeTail k
        { tag := tag, kind := k, entry := entry, waitLimit := wait, index := wordOf ih il, length := len,
          condition := cond, data := [], mask := 0, matchByte := 0, count := 0, interval := 0, lease := 0 }
        tail
  | _ => none

/-! ### The access check (R9 to R12) -/

/-- The kinds each entry type admits (R9). -/
def admits (t : EntryType) (k : Kind) : Bool :=
  match k with
  | .read | .write | .poll => t != .byte
  | .send | .recv => t = .byte
  | .probe | .lock | .unlock | .brk | .fence => true

/-- The first and last index of a request's range (R11): a SEND or RECV is taken at index 0 (R9). -/
def requestRange (t : EntryType) (r : Request) : Nat × Nat :=
  let i := (effectiveIndex t r.index).toNat
  match r.kind with
  | .read | .write => (i, i + r.length.toNat - 1)
  | .poll => (i, i)
  | .send | .recv | .probe | .lock | .unlock | .brk | .fence => (0, 0)

/-- The window that contains both ends of a range (R11). -/
def Entry.windowOf (e : Entry) (range : Nat × Nat) : Option Window :=
  e.windows.find? fun w => w.first.toNat ≤ range.1 && range.1 ≤ w.last.toNat
    && (w.first.toNat ≤ range.2 && range.2 ≤ w.last.toNat)

/-- The kinds whose range is checked (R10, step 3). -/
def hasRange : Kind → Bool
  | .read | .write | .poll => true
  | .send | .recv | .probe | .lock | .unlock | .brk | .fence => false

/-- The right step (R12): `level` is the port's privilege level. -/
def hasRight (e : Entry) (p : Port) (level : Level) (r : Request) : Bool :=
  match r.kind with
  | .read | .poll | .recv => (e.windowOf (requestRange e.type r)).any fun w => hasBit w.readSet p
  | .write | .send => (e.windowOf (requestRange e.type r)).any fun w => hasBit w.writeSet p
  | .probe => e.readable p
  | .lock | .brk => e.writable p && level ≤ e.lockLevel
  | .unlock | .fence => true

/-- The access check (R10): the code of the first step that fails; none when all pass. FENCE skips it. -/
def State.accessCheck (s : State) (p : Port) (r : Request) : Option ResultCode :=
  if r.kind = .fence then none
  else
    match s.requestEntry r with
    | none => some .noEntry
    | some e =>
      if !admits e.type r.kind then some .badKind
      else if hasRange r.kind && (e.windowOf (requestRange e.type r)).isNone then some .badRange
      else if !hasRight e p (s.port p).level r then some .denied
      else none

/-! ### The entry record (section 10.5, R8) -/

/-- An entry record as it stands in a list or in a DIR_WRITE, its bytes not yet judged. -/
structure RawRecord where
  number : Byte
  address : Byte
  type : Byte
  lockLevel : Byte
  windows : List Window
deriving DecidableEq, Repr

/-- `n` windows of 5 bytes each (section 10.5). -/
def parseWindows : Nat → List Byte → List Window
  | n + 1, a :: b :: c :: d :: r :: rest =>
    { first := wordOf a b, last := wordOf c d, readSet := r.extractLsb' 0 4, writeSet := r.extractLsb' 4 4 }
      :: parseWindows n rest
  | _, _ => []

/-- The record after its marker (section 10.5). -/
def parseRecord (bs : List Byte) : Option RawRecord :=
  match bs with
  | _ :: number :: address :: type :: level :: n :: rest =>
    some { number := number, address := address, type := type, lockLevel := level,
           windows := parseWindows n.toNat rest }
  | _ => none

/-- The largest index of a type (R4). -/
def lastIndex : EntryType → Nat
  | .byte => 0 | .indexed8 => 255 | .indexed16 => 65535

/-- Each window's first index is greater than the last index of the window before it (R6). -/
def windowsAscend : List Window → Bool
  | w :: v :: rest => w.last.toNat < v.first.toNat && windowsAscend (v :: rest)
  | _ => true

/-- The window conditions of R8 for a type. -/
def windowsValid (t : EntryType) (ws : List Window) : Bool :=
  1 ≤ ws.length && ws.length ≤ 4 && ws.all (fun w => w.first.toNat ≤ w.last.toNat && w.last.toNat ≤ lastIndex t)
    && windowsAscend ws && (t != .byte || ws.length = 1)

/-- A record is valid (R8). -/
def RawRecord.valid (r : RawRecord) : Bool :=
  0x08 ≤ r.address.toNat && r.address.toNat ≤ 0x77 && r.lockLevel.toNat ≤ 3 &&
    match typeOfByte r.type with
    | none => false
    | some t => windowsValid t r.windows

/-- The entry that fills a slot from a record: its static fields, count 0, and the slot-filling values (R14, R17). -/
def RawRecord.toEntry (r : RawRecord) : Entry :=
  { address := r.address.setWidth 7, type := (typeOfByte r.type).getD .byte, lockLevel := Fin.ofNat 4 r.lockLevel.toNat,
    windows := r.windows, nackCount := 0, owner := none, leaseValue := 0, leaseRemaining := 0,
    releaseReason := .initial, watchSet := 0 }

/-! ### The configuration list (R164, R166, R167, R174) -/

/-- How the walk stands at its position (R164): it waits for more bytes, it has found the end marker with its checksum
staged, or reading stops at a byte that is no marker or at a bad window count. -/
inductive WalkStop where
  | waits | ended | badMarker | badCount
deriving DecidableEq, Repr

/-- The walk from a position (R164): the records it passes, the position it comes to, and how it stands there. The
first argument bounds the number of records. -/
def walkFrom (staged : List Byte) : Nat → Nat → List RawRecord × Nat × WalkStop
  | 0, pos => ([], pos, .waits)
  | fuel + 1, pos =>
    match staged[pos]? with
    | none => ([], pos, .waits)
    | some m =>
      if m = 0xFF then ([], pos, if (staged[pos + 1]?).isSome then .ended else .waits)
      else if m = 0xE0 then
        match staged[pos + 5]? with
        | none => ([], pos, .waits)
        | some n =>
          if n.toNat = 0 ∨ 4 < n.toNat then ([], pos, .badCount)
          else if pos + 6 + 5 * n.toNat ≤ staged.length then
            let rest := walkFrom staged fuel (pos + 6 + 5 * n.toNat)
            ((parseRecord (staged.drop pos)).toList ++ rest.1, rest.2)
          else ([], pos, .waits)
      else ([], pos, .badMarker)

/-- The port settings a port byte carries (section 10.6). -/
structure PortByte where
  enabled : Bool
  level : Level
  route : Line
  clearMode : ClearMode
deriving DecidableEq, Repr

/-- A port byte decoded (section 10.6). -/
def decodePortByte (b : Byte) : PortByte :=
  { enabled := b.getLsbD 0, level := (b.extractLsb' 1 2).toFin, route := (b.extractLsb' 3 2).toFin,
    clearMode := if b.getLsbD 5 then .ackClears else .readClears }

/-- The port byte of `p` in a staged list: indices 4 to 7 (section 10.6). -/
def stagedPortByte (staged : List Byte) (p : Port) : Byte := staged.getD (4 + p.val) 0

/-- The header holds a value that is not allowed, or marks no port both enabled and at level 0 (R167, R174). -/
def headerBad (staged : List Byte) : Bool :=
  (staged.getD 3 0).extractLsb' 2 6 != 0#6
    || (List.finRange 4).any (fun p => (stagedPortByte staged p).extractLsb' 6 2 != 0#2)
    || !(List.finRange 4).any fun p =>
        (decodePortByte (stagedPortByte staged p)).enabled && (decodePortByte (stagedPortByte staged p)).level = 0

/-- Entry numbers are below 32 and each above the one before (R167, ORDER). -/
def numbersAscend : List RawRecord → Bool
  | [] => true
  | [r] => r.number.toNat < 32
  | r :: q :: rest => r.number.toNat < 32 && r.number.toNat < q.number.toNat && numbersAscend (q :: rest)

/-- Two records carry the same bus address (R167, DUP_ADDRESS). -/
def repeatsAddress : List RawRecord → Bool
  | [] => false
  | r :: rest => rest.any (fun q => q.address = r.address) || repeatsAddress rest

/-- The sum of bytes modulo 256 (R166). -/
def checksumOf (bs : List Byte) : Byte := bs.foldl (· + ·) 0

/-- VALIDATING (R167): the first load fault of the staged list in the order of the table, none when it is valid. -/
def validate (staged : List Byte) : Option LoadFault :=
  let w := walkFrom staged staged.length 8
  if staged.take 2 ≠ [0x46, 0x42] then some .badSignature
  else if staged.getD 2 0 ≠ 0x01 then some .badVersion
  else if headerBad staged then some .badHeader
  else if w.2.2 = .badMarker ∨ w.2.2 = .badCount ∨ w.1.any (fun r => !r.valid) then some .badRecord
  else if !numbersAscend w.1 then some .order
  else if repeatsAddress w.1 then some .dupAddress
  else if w.2.2 = .waits then some .tooLong
  else if checksumOf (staged.take (w.2.1 + 2)) ≠ 0 then some .checksum
  else none

/-- The directory of a valid list: each record fills the slot its entry number names (R166). -/
def listedEntry (staged : List Byte) (e : EntryNo) : Option Entry :=
  ((walkFrom staged staged.length 8).1.find? fun r => r.number.toNat = e.val).map RawRecord.toEntry

/-! ### Frame ends (R128 to R130) -/

/-- The argument bytes a command needs in the port-level handling (R130). -/
def argsNeeded : Command → Nat
  | .status | .fetch | .events | .changes | .seal | .restart | .dirWrite => 0
  | .cancel | .watch | .unwatch | .renew | .dirRead | .dirClear | .hold | .release => 1
  | .setMask | .ackEvents => 2
  | .submit => 8

/-- What a frame end hands to a command's own rule. -/
structure FrameEnd where
  /-- The frame's response snapshot (R127). -/
  response : Response
  /-- The port was HELD at the end of byte 0 or since (R45). -/
  heldSince : Bool
  /-- The port's clear list as it stood at the frame end (R149, R154). -/
  clearList : ClearList
  /-- The whole bytes after byte 0 (R128). -/
  args : List Byte
deriving DecidableEq, Repr

/-- The number of whole bytes of the frame, byte 0 included (R128). -/
def FrameEnd.whole (f : FrameEnd) : Nat := f.args.length + 1

/-- Argument byte `n`, counted from 0. -/
def FrameEnd.arg (f : FrameEnd) (n : Nat) : Byte := f.args.getD n 0

/-- The frame closes at select rise; a clear list goes with it (R128, R149, R154). -/
def State.closeFrame (s : State) (p : Port) : State :=
  s.modPort p fun u => { u with frame := .idle, notify := { u.notify with clearList := .absent } }

/-- The port-level handling (R129), and the command's own rule for a frame that passes it. -/
def State.portLevel (s : State) (p : Port) (c : Command) (f : FrameEnd) (rule : FrameEnd → State → State) : State :=
  if (s.port p).state = .held ∧ c ≠ .status ∧ c ≠ .release then s.setResult p .held
  else if s.phase = .loading ∧ c ≠ .status then s.setResult p .notReady
  else if f.args.length < argsNeeded c then s.setResult p .shortFrame
  else rule f s

/-- The frame that ends at port `p` with `bits` received after byte 0, when a frame is open there whose byte 0 has been
taken: its command byte, and what its command's rule is handed. -/
def State.frameAt (s : State) (p : Port) (bits : List Bool) : Option (Byte × FrameEnd) :=
  if (s.port p).state = .offline then none
  else
    match (s.port p).frame with
    | .opened f =>
      match wholeBytes (f.bitsIn ++ bits), f.lastResult with
      | b0 :: args, some _ =>
        some (b0, { response := f.response, heldSince := f.heldSince, clearList := (s.port p).notify.clearList,
                    args := args })
      | _, _ => none
    | .idle | .discarded | .ignored => none

/-- Select rises on a frame that is not in progress here: where select was low on a discarded frame, or without a
frame, it is high again and nothing is judged (R144); otherwise there is no such frame end and nothing changes
(log 12). -/
def State.unjudgedEnd (s : State) (p : Port) : State :=
  if (s.port p).frame = .discarded ∨ (s.port p).frame = .ignored then s.modPort p fun u => { u with frame := .idle }
  else s

/-- The frame end of command `c` at port `p` (R128): the frame closes and is judged. -/
def State.frameEnd (s : State) (p : Port) (c : Command) (bits : List Bool) (rule : FrameEnd → State → State) : State :=
  match s.frameAt p bits with
  | some (b0, f) => if b0 = commandCode c then (s.closeFrame p).portLevel p c f rule else s
  | none => s.unjudgedEnd p

end Sys2Proof.Machine
end

