-- ==== Sys2Proof/Machine/Reports.lean ====
section
/-! DEFINITION. What follows the end of bus work: the loader's run (chapter 9), a poll slot's own answer to its report
(R96, R97), the requester's taking of a report (R64, R66, R165), and the end of a recovery (R117). -/

namespace Sys2Proof.Machine

/-! ### The Configuration Loader (chapter 9) -/

/-- The largest configuration list, and the size of the staging buffer (R159, R166). -/
def stagingSize : Nat := 842

/-- The loader starts its next read, at the index after the bytes staged: 16 bytes, or those up to 842 (R121, R164). -/
def State.startLoaderRead (s : State) : State :=
  match s.loader.memAddress with
  | none => s
  | some a =>
    let at' := s.loader.staging.length
    s.setEngine (s.engine.start
      (.fresh .loader .read a (indexBytesOf .indexed16 (BitVec.ofNat 16 at')) (min 16 (stagingSize - at')) []))

/-- The port becomes OFFLINE (R144): a frame is discarded, and select, if low, is low without one. The same of the rest of
a frame that a restart had discarded: DESIGN CHOICE, log 8; with select still low at a second restart, data-out is then
free, for R144's 0xFF is not taken to outlast the OFFLINE state. -/
def FrameState.goOffline : FrameState → FrameState
  | .idle => .idle
  | .opened _ => .ignored
  | .discarded => .ignored
  | .ignored => .ignored

/-- The loader's state when it finishes: the staged bytes and the walk are discarded (R159; log 15). -/
def Loader.done (l : Loader) (f : LoadFault) : Loader :=
  { l with step := .finished, staging := [], walk := 8, fault := f }

/-- A Port Unit with the default settings of a load fault (R167), and R145's values at the end of LOADING. -/
def PortUnit.defaultSettings (u : PortUnit) (p : Port) : PortUnit :=
  { u with state := .active, level := restartLevel p, origin := none,
           notify := { u.notify with route := p, clearMode := .readClears, changed := 0, clearList := .absent } }

/-- The load ends with a fault (R167), in one act. -/
def State.loadFault (s : State) (f : LoadFault) : State :=
  ({ (s.mapPorts fun p u => u.defaultSettings p) with
      phase := .config, loader := s.loader.done f, directory := Vector.replicate 32 none,
      engine := { s.engine with speed := .khz100 } } : State).raiseAll .loadFault

/-- A Port Unit with the settings of its port byte (R123, R144, R166). -/
def PortUnit.configured (u : PortUnit) (b : PortByte) : PortUnit :=
  { u with state := if b.enabled then .active else .offline, level := b.level, origin := none,
           frame := if b.enabled then u.frame else u.frame.goOffline,
           notify := { u.notify with route := b.route, clearMode := b.clearMode, changed := 0, clearList := .absent } }

/-- The flags byte of the staged header (section 10.6). -/
def stagedFlags (staged : List Byte) : Byte := staged.getD 3 0

/-- The commit of a valid list (R166, R170), in one act. -/
def State.commit (s : State) : State :=
  let st := s.loader.staging
  { (s.mapPorts fun p u => u.configured (decodePortByte (stagedPortByte st p))) with
    phase := if (stagedFlags st).getLsbD 0 then .run else .config,
    loader := s.loader.done .noFault,
    directory := Vector.ofFn fun e => listedEntry st e,
    engine := { s.engine with speed := if (stagedFlags st).getLsbD 1 then .khz400 else .khz100 } }

/-- The loader's VALIDATING step and what follows it (R166, R167). -/
def State.finishLoad (s : State) : State :=
  match validate s.loader.staging with
  | some f => s.loadFault f
  | none => s.commit

/-- A loader read that ended OK (R164): its bytes are staged, the walk advances, and the loader stops reading or makes
its next read. -/
def State.stage (s : State) (bytes : List Byte) : State :=
  let staged := s.loader.staging ++ bytes
  let w := walkFrom staged staged.length s.loader.walk
  let s1 := { s with loader := { s.loader with staging := staged, walk := w.2.1 } }
  if w.2.2 ≠ .waits ∨ stagingSize ≤ staged.length then s1.finishLoad else s1.startLoaderRead

/-- The loader takes the report of its read (R164, R165). After BUS_STUCK it waits for the recovery that follows, unless
the bus is FAULTED already. -/
def State.loaderReport (s : State) (r : Report) : State :=
  match r.status with
  | .ok => s.stage r.data
  | .nackAddr => s.loadFault (if s.loader.staging = [] then .noMemory else .busError)
  | .nackData => s.loadFault .busError
  | .stuck => if s.engine.busState = .faulted then s.loadFault .busError else s

/-! ### A poll slot takes its iteration's report (R96, R97) -/

/-- The masked compare (R96). -/
def Poll.met (q : Poll) (b : Byte) : Bool :=
  match q.condition with
  | .untilEqual => (b &&& q.mask) = (q.matchByte &&& q.mask)
  | .untilDifferent => (b &&& q.mask) != (q.matchByte &&& q.mask)

/-- The slot after an iteration that read byte `b` (R96): the count falls, the byte is kept. -/
def Poll.counted (q : Poll) (b : Byte) : Poll := { q with remaining := q.remaining - 1, lastByte := some b }

/-- The slot after an unmet iteration taken at time `now` (R92): WAITING until the interval has passed, or DUE at once
with interval 0. -/
def Poll.waitFrom (q : Poll) (now : Time) : Poll :=
  { q with nextDue := now.toNat + q.interval, state := if q.interval = 0 then .due else .waiting }

/-- What the slot does with a report (R96, R97, R100). -/
def Poll.answer (q : Poll) (now : Time) (r : Report) : Poll × Option Status :=
  match r.status, r.data with
  | .ok, b :: _ =>
    let q1 := q.counted b
    if q.cancelPending then (q1, some .aborted)
    else if q.met b then (q1, some .ok)
    else if q1.remaining = 0 then (q1, some .exhausted)
    else (q1.waitFrom now, none)
  | st, _ => (q, some (if q.cancelPending then .aborted else statusOf st))

/-- Slot `k` takes its iteration's report (R66): it goes on, or its poll ends and its record is to be appended. -/
def State.slotReport (s : State) (k : SlotNo) (r : Report) : State × List (Port × Completion) :=
  match s.poll k with
  | none => (s, [])
  | some q =>
    match q.answer s.timeBase r with
    | (q', none) => (s.setPoll k (some q'), [])
    | (q', some st) => (s.setPoll k none, [(q.port, pollRecord q' st)])

/-! ### A requester takes a report (R64 to R66, R112) -/

/-- The record of a bus request from its report (R40 to R43, R64). -/
def busRecord (c : Current) (r : Report) : Completion :=
  { tag := c.tag, kind := c.kind, entry := BitVec.ofNat 8 c.entry.val, status := statusOf r.status,
    lockLost := c.lockLost, previousRelease := none, count := r.count, data := r.data }

/-- The report of a transaction granted to a port position (R64, R65): record unless discarded, health, and a write
notice for a WRITE or SEND whose count is at least 1. -/
def State.requestReport (s : State) (c : Current) (r : Report) : State :=
  let s1 := s.relayHealth c.entry (outcomeOf r.status)
  let s2 := if (c.kind = .write ∨ c.kind = .send) ∧ 1 ≤ r.count then s1.writeNotice c.entry c.port else s1
  s2.settle (if c.discard then [] else [(c.port, busRecord c r)])

/-- The report of a poll iteration (R66): health first (R91), then the slot, unless HOLD removed it. -/
def State.iterationReport (s : State) (c : Current) (k : SlotNo) (r : Report) : State :=
  let s1 := s.relayHealth c.entry (outcomeOf r.status)
  if c.discard then s1.settle []
  else
    let x := s1.slotReport k r
    x.1.settle x.2

/-- The scheduler takes a report, and the current-transaction record is removed (R64, R66). -/
def State.schedulerReport (s : State) (r : Report) : State :=
  match s.scheduler.current with
  | none => s.settle []
  | some c =>
    match c.slot with
    | none => (s.setCurrent none).requestReport c r
    | some k => (s.setCurrent none).iterationReport c k r

/-- The engine after a transaction's report (R112): READY; RECOVERING after a stuck line or the stretch limit; FAULTED
when a blocked START's recovery failed. -/
def State.engineAfter (s : State) (st : BusStatus) (startFailed : Bool) : State :=
  if startFailed then s.enterFaulted
  else if st = .stuck then s.setEngine (s.engine.recover .afterStuck)
  else s.setEngine s.engine.idle

/-- Transaction `t` ends with status `st`: the engine goes on and the requester takes the report (R112). -/
def State.endTransaction (s : State) (t : Transaction) (st : BusStatus) (startFailed : Bool) : State :=
  match t.requester with
  | .scheduler => (s.engineAfter st startFailed).schedulerReport (t.report st)
  | .loader => (s.engineAfter st startFailed).loaderReport (t.report st)

/-! ### The end of a recovery (R117) -/

/-- The loader waits for the recovery that followed its stuck read (R165). -/
def State.loaderWaits (s : State) : Bool := s.phase = .loading && s.loader.step = .reading

/-- A recovery of the given cause ends (R115, R117 to R121, R163, R165). -/
def State.recoveryEnds (s : State) (c : RecoveryCause) (success : Bool) : State :=
  match c with
  | .blockedStart =>
    if success then s.setEngine { s.engine with recovery := none, stretch := none }
    else
      match s.engine.transaction with
      | none => s
      | some t => s.endTransaction t .stuck true
  | .afterStuck =>
    let s1 := if success then s.setEngine s.engine.idle else s.enterFaulted
    if s.loaderWaits then s1.loadFault .busError else s1.settle []
  | .retry =>
    if success then
      let s1 := s.setEngine { s.engine.idle with fault := false }
      (if s.phase = .loading then s1 else s1.raiseAll .busOk).settle []
    else s.enterFaulted.settle []
  | .startUp =>
    if success then
      ({ s with engine := s.engine.idle, loader := { s.loader with step := .reading } } : State).startLoaderRead
    else s.enterFaulted.loadFault .busError

end Sys2Proof.Machine
end

