-- ==== Sys2Proof/Machine/Startup.lean ====
section
/-! DEFINITION. The meanings of POWER_ON, RESETN_FALL, LOADER_START, TICK and the expiries of the timers that TICK
counts. -/

namespace Sys2Proof.Machine

/-! ### Restart (R160 to R162) -/

/-- A restart discards a frame in progress (R144). A select that is low without a frame, from a port's time OFFLINE, stays
so until it rises, and no rule gives what the port then drives (DESIGN CHOICE, log 8: a free value). -/
def FrameState.discard : FrameState → FrameState
  | .idle => .idle
  | .opened _ => .discarded
  | .discarded => .discarded
  | .ignored => .ignored

/-- A restart of the whole part with a cause, in one act (R161): every block at its restart values; a frame in progress
is discarded (R144). The queue of commands and the count of free values are the model's own and stay. -/
def State.restart (s : State) (cause : ResetCause) (resetnHigh : Bool) : State :=
  { pending := s.pending, timeBase := 0, phase := .loading, resetn := resetnHigh, loader := Loader.initial,
    ports := Vector.ofFn fun p => PortUnit.initial p cause (s.port p).frame.discard,
    directory := Vector.replicate 32 none, scheduler := Scheduler.initial, engine := Engine.initial,
    freeCount := s.freeCount }

/-- POWER_ON (R160): a restart with cause POWER_ON; RESETN may be high or held low. -/
def execPowerOn (resetnHigh : Bool) (s : State) : Host.Outcome State Fault Refusal :=
  .next (s.restart .powerOn resetnHigh)

/-- RESETN_FALL (R160): a restart with cause PIN; RESETN is low. -/
def execResetnFall (s : State) : Host.Outcome State Fault Refusal := .next (s.restart .pin false)

/-- The memory address the straps give: 0x54, plus 1 for CFGA0 and 2 for CFGA1 (R163). -/
def strapAddress (cfga0 cfga1 : Bool) : BitVec 7 :=
  0x54#7 + (if cfga0 then 1#7 else 0#7) + (if cfga1 then 2#7 else 0#7)

/-- The loader leaves RESET_WAIT, RESETN being high (R163): the straps are sampled and the start-up recovery begins. -/
def State.loaderStart (s : State) (cfga0 cfga1 : Bool) : State :=
  { s with resetn := true,
           loader := { s.loader with step := .startRecovery, memAddress := some (strapAddress cfga0 cfga1) },
           engine := s.engine.recover .startUp }

/-- LOADER_START (R163): at the rise of RESETN, or with RESETN high (R160). -/
def execLoaderStart (cfga0 cfga1 : Bool) (bus : BusRead) (s : State) : Host.Outcome State Fault Refusal :=
  .next (if s.phase = .loading ∧ s.loader.step = .resetWait then
      (s.loaderStart cfga0 cfga1).busRuns bus.samples bus.mckLow
    else s)

/-! ### The tick (R1) -/

/-- A timer that stops at a largest value without wrapping (R58, R93, R103). -/
def riseTo (top n : Nat) : Nat := min top (n + 1)

/-- The time base rises by 1 (R1); past its largest value a free value (log 7). -/
def State.tickTime (s : State) : State :=
  if s.timeBase = BitVec.allOnes 48 then
    { s with timeBase := Config.freeTime s.freeCount, freeCount := s.freeCount + 1 }
  else { s with timeBase := s.timeBase + 1 }

/-- A port's deferral timer at a tick: it rises while the head is DEFERRED (R58). -/
def State.tickPort (s : State) (p : Port) (u : PortUnit) : PortUnit :=
  if s.headState p = some .deferred then { u with deferral := u.deferral.map (riseTo 65535) } else u

/-- An entry at a tick: a locked entry's lease remaining falls by 1 (R70). -/
def Entry.tick (e : Entry) : Entry :=
  if e.owner.isSome then { e with leaseRemaining := e.leaseRemaining - 1 } else e

/-- A poll slot at a tick: the block timer rises while BLOCKED (R93). -/
def Poll.tick (q : Poll) : Poll :=
  if q.state = .blocked then { q with blockTimer := some (riseTo 65535 (q.blockTimer.getD 0)) } else q

/-- The engine at a tick: the stretch timer rises while MCK stays low (R113), the retry timer while the bus is FAULTED
(R119). -/
def Engine.tick (e : Engine) (mckLow : Bool) : Engine :=
  { e with stretch := if e.driving && mckLow then some (riseTo 26 (e.stretch.getD 0)) else none,
           retry := if e.busState = .faulted then e.retry.map (riseTo 100) else e.retry }

/-- TICK (R1): after what the engine read on the wires, every timer moves by one. -/
def State.tick (s : State) (bus : BusRead) : State :=
  (((s.mapPorts s.tickPort).mapEntries Entry.tick).mapPolls (Option.map Poll.tick)).setEngine
    ((s.engine.reads bus.samples).1.tick bus.mckLow)

/-- TICK (R1). -/
def execTick (bus : BusRead) (s : State) : Host.Outcome State Fault Refusal := .next (s.tick bus).tickTime

/-! ### Expiries -/

/-- LEASE_EXPIRY of entry `e` (R70): its lease has run out; the lock-lost mark, the release with EXPIRED, and
LEASE_EXPIRED in the old owner. -/
def execLeaseExpiry (e : EntryNo) (s : State) : Host.Outcome State Fault Refusal :=
  .next (match s.entry e with
    | none => s
    | some en =>
      match en.owner with
      | none => s
      | some p =>
        if en.leaseRemaining = 0 then
          let x := (s.markLockLost e p).release e .expired
          (x.1.raise p .leaseExpired).settle x.2
        else s)

/-- A DEFERRED head whose timer has reached its wait limit; 255 is no limit (R58). -/
def State.deferralExpired (s : State) (p : Port) : Option Request :=
  match s.head p with
  | none => none
  | some r =>
    if s.headState p = some .deferred ∧ r.waitLimit ≠ 255 ∧ r.waitLimit.toNat ≤ (s.port p).deferral.getD 0 then some r
    else none

/-- DEFERRAL_EXPIRY of port `p` (R58, R59): the head's outcome is fixed as LOCKED, and with a free credit it is taken
and ends LOCKED in the same act (log 11). -/
def execDeferralExpiry (p : Port) (s : State) : Host.Outcome State Fault Refusal :=
  .next (match s.deferralExpired p with
    | none => s
    | some r =>
      if (s.port p).creditFree then
        (s.modPort p PortUnit.takeHead).settle [(p, plainRecord r .locked none)]
      else s.modPort p fun u => { u with lockedMark := true })

/-- BLOCK_EXPIRY of slot `k` (R93): a BLOCKED slot's timer has reached its wait limit; the poll ends LOCKED. -/
def execBlockExpiry (k : SlotNo) (s : State) : Host.Outcome State Fault Refusal :=
  .next (match s.poll k with
    | none => s
    | some q =>
      if q.state = .blocked ∧ q.waitLimit ≠ 255 ∧ q.waitLimit.toNat ≤ q.blockTimer.getD 0 then
        (s.setPoll k none).settle [(q.port, pollRecord q .locked)]
      else s)

/-- POLL_DUE of slot `k` (R92): the time base has reached a WAITING slot's next-due time; it turns DUE and is judged. -/
def execPollDue (k : SlotNo) (s : State) : Host.Outcome State Fault Refusal :=
  .next (match s.poll k with
    | none => s
    | some q =>
      if q.state = .waiting ∧ q.nextDue ≤ s.timeBase.toNat then
        (s.setPoll k (some { q with state := .due })).settle []
      else s)

end Sys2Proof.Machine
end

