-- ==== Sys2Proof/Machine/Frames.lean ====
section
/-! DEFINITION. The meanings of FRAME_OPEN, RESPONSE_SNAPSHOT, IGNORED_FRAME, UNKNOWN_COMMAND and STATUS (chapter 7). -/

namespace Sys2Proof.Machine

/-- A frame at select fall (R126). -/
def Frame.fresh (status : Byte) : Frame :=
  { statusByte := status, bitsIn := [], lastResult := none, response := .absent, heldSince := false }

/-- FRAME_OPEN (R126): select falls; the frame status byte is captured. An OFFLINE port takes no frame (R144): its
select is low without one, which shows when a restart makes the port ACTIVE (log 8). -/
def execFrameOpen (p : Port) (s : State) : Host.Outcome State Fault Refusal :=
  .next (if (s.port p).state = .offline then s.modPort p fun u => { u with frame := .ignored }
    else
      match (s.port p).frame with
      | .opened _ => s
      | .idle | .discarded | .ignored => s.modPort p fun u => { u with frame := .opened (Frame.fresh (s.frameStatus p)) })

/-- The response of a command, if the frame presents one (R127). -/
def State.responseFor (s : State) (p : Port) (c : Option Command) : Response :=
  match c with
  | some .status => .status (s.extendedStatus p)
  | some .fetch => if (s.port p).state = .active ∧ s.phase ≠ .loading then .record (s.port p).completions.head? else .absent
  | some .dirRead => if (s.port p).state = .active ∧ s.phase ≠ .loading then .directory s.directory else .absent
  | some .events => if (s.port p).state = .active ∧ s.phase ≠ .loading then .flags (s.port p).shownFlags else .absent
  | some .changes => if (s.port p).state = .active ∧ s.phase ≠ .loading then .changed (s.port p).notify.changed else .absent
  | _ => .absent

/-- The clear list a response sets (R149, R154): the edge flags shown, in READ_CLEARS mode; the Changed Set's members. -/
def clearListFor (m : ClearMode) (r : Response) (old : ClearList) : ClearList :=
  match r with
  | .flags f => if m = .readClears then .flags (f &&& edgeFlags) else old
  | .changed c => .entries c
  | _ => old

/-- Byte 0 of a frame is complete (R127): the last-result byte and the response snapshot are captured in one act. -/
def State.snapshot (s : State) (p : Port) (f : Frame) (byte0 : Byte) : State :=
  let r := s.responseFor p (commandOfByte byte0)
  s.modPort p fun u =>
    { u with
      frame := .opened { f with bitsIn := f.bitsIn ++ bitsOfByte byte0, lastResult := some u.lastResult, response := r,
                                heldSince := u.state = .held },
      notify := { u.notify with clearList := clearListFor u.notify.clearMode r u.notify.clearList } }

/-- RESPONSE_SNAPSHOT (R127), in a frame whose byte 0 was not complete. -/
def execResponseSnapshot (p : Port) (byte0 : Byte) (s : State) : Host.Outcome State Fault Refusal :=
  .next (if (s.port p).state = .offline then s
    else
      match (s.port p).frame with
      | .opened f => if f.lastResult = none then s.snapshot p f byte0 else s
      | .idle | .discarded | .ignored => s)

/-- IGNORED_FRAME (R128): select rises on a frame with no whole byte; the frame is closed and nothing else changes. -/
def execIgnoredFrame (p : Port) (bits : List Bool) (s : State) : Host.Outcome State Fault Refusal :=
  .next (match (s.port p).frame with
    | .opened f =>
      if f.lastResult = none ∧ wholeBytes (f.bitsIn ++ bits) = [] then s.modPort p fun u => { u with frame := .idle } else s
    | .idle | .discarded | .ignored => s.unjudgedEnd p)

/-- UNKNOWN_COMMAND (R129): a frame end whose byte 0 names no command gives BAD_COMMAND. -/
def execUnknownCommand (p : Port) (bits : List Bool) (s : State) : Host.Outcome State Fault Refusal :=
  .next (match s.frameAt p bits with
    | some (b0, _) => if commandOfByte b0 = none then (s.closeFrame p).setResult p .badCommand else s
    | none => s.unjudgedEnd p)

/-- STATUS's own rule (R134): DONE. -/
def statusRule (p : Port) (_f : FrameEnd) (s : State) : State := s.setResult p .done

/-- STATUS frame end (R134). -/
def execStatus (p : Port) (bits : List Bool) (s : State) : Host.Outcome State Fault Refusal :=
  .next (s.frameEnd p .status bits (statusRule p))

end Sys2Proof.Machine
end

