-- ==== Sys2Proof/Machine/Requests.lean ====
section
/-! DEFINITION. The meanings of SUBMIT, FETCH and CANCEL (chapter 2). -/

namespace Sys2Proof.Machine

/-- A tag is outstanding at port `p` (R29): queued, on the bus and not discarded (R48), or parked. -/
def State.tagOutstanding (s : State) (p : Port) (tag : Byte) : Bool :=
  (s.port p).requests.any (fun r => r.tag = tag)
    || s.scheduler.current.any (fun c => c.port = p && c.tag = tag && !c.discard)
    || (List.finRange 6).any fun k => (s.poll k).any fun q => q.port = p && q.tag = tag

/-- The submission checks of R25 after the phase step, in order; the request joins the tail of the queue when all pass
(R27 to R30) and, if it is at once the head, is judged as one. -/
def State.submit (s : State) (p : Port) (args : List Byte) : State :=
  match decodeRequest args with
  | none => s.setResult p .malformed
  | some r =>
    if (s.port p).requests.length ≥ 8 then s.setResult p .queueFull
    else if s.tagOutstanding p r.tag then s.setResult p .dupTag
    else
      match s.accessCheck p r with
      | some code => s.setResult p code
      | none =>
        ((s.modPort p fun u => { u with requests := u.requests ++ [r] }).setResult p .done).judgeHead p

/-- SUBMIT's own rule (R25, R26). -/
def submitRule (p : Port) (f : FrameEnd) (s : State) : State :=
  if s.phase = .config then s.setResult p .wrongPhase else s.submit p f.args

/-- SUBMIT frame end (R25). -/
def execSubmit (p : Port) (bits : List Bool) (s : State) : Host.Outcome State Fault Refusal :=
  .next (s.frameEnd p .submit bits (submitRule p))

/-- FETCH's own rule (R45, R46): a presented record whose every byte was clocked out leaves the queue. A snapshot that
holds no record gives EMPTY: the queue was empty, as it is in LOADING too (R47). -/
def fetchRule (p : Port) (f : FrameEnd) (s : State) : State :=
  if s.phase = .config then s.setResult p .wrongPhase
  else if f.heldSince then s.setResult p .held
  else
    match f.response with
    | .record (some r) =>
      if r.length + 2 ≤ f.whole then
        (s.modPort p fun u => { u with completions := u.completions.tail }).setResult p .done
      else s.setResult p .done
    | _ => s.setResult p .empty

/-- FETCH frame end (R46). -/
def execFetch (p : Port) (bits : List Bool) (s : State) : Host.Outcome State Fault Refusal :=
  .next (s.frameEnd p .fetch bits (fetchRule p))

/-- A request removed from a Request Queue by its tag (R35): if it was the head, its timer and mark go with it. -/
def PortUnit.removeTag (u : PortUnit) (tag : Byte) : PortUnit :=
  if u.requests.head?.any fun r => r.tag = tag then u.dropHead
  else { u with requests := u.requests.eraseP fun r => r.tag = tag }

/-- The slot that holds port `p`'s poll with a tag. -/
def State.pollTagged (s : State) (p : Port) (tag : Byte) : Option SlotNo :=
  (List.finRange 6).find? fun k => (s.poll k).any fun q => q.port = p && q.tag = tag

/-- A CANCEL of the poll in slot `k` (R99, R100): RUNNING slots are marked, the others end ABORTED at once. -/
def State.cancelPoll (s : State) (k : SlotNo) : State :=
  match s.poll k with
  | none => s
  | some q =>
    if q.state = .running then s.setPoll k (some { q with cancelPending := true })
    else (s.setPoll k none).append [(q.port, pollRecord q .aborted)]

/-- CANCEL's own rule (R34, R35). -/
def cancelRule (p : Port) (f : FrameEnd) (s : State) : State :=
  let tag := f.arg 0
  if s.phase = .config then s.setResult p .wrongPhase
  else if (s.port p).requests.any fun r => r.tag = tag then
    ((s.modPort p fun u => u.removeTag tag).judgeHead p).setResult p .done
  else
    match s.pollTagged p tag with
    | some k => (s.cancelPoll k).setResult p .done
    | none =>
      if s.scheduler.current.any fun c => c.slot = none && c.port = p && c.tag = tag && !c.discard then
        s.setResult p .inFlight
      else s.setResult p .notFound

/-- CANCEL frame end (R34). -/
def execCancel (p : Port) (bits : List Bool) (s : State) : Host.Outcome State Fault Refusal :=
  .next (s.frameEnd p .cancel bits (cancelRule p))

end Sys2Proof.Machine
end

