-- ==== Sys2Proof/Machine/Notify.lean ====
section
/-! DEFINITION. The meanings of EVENTS, ACK_EVENTS, SET_MASK, CHANGES, WATCH and UNWATCH (chapter 8). -/

namespace Sys2Proof.Machine

/-- EVENTS' own rule (R149): with at least 4 whole bytes, the flags still on the clear list are cleared. -/
def eventsRule (p : Port) (f : FrameEnd) (s : State) : State :=
  match f.clearList with
  | .flags l =>
    if 4 ≤ f.whole then
      (s.modPort p fun u => u.modNotify fun n => { n with flags := n.flags &&& ~~~l }).setResult p .done
    else s.setResult p .done
  | .absent | .entries _ => s.setResult p .done

/-- EVENTS frame end (R149). -/
def execEvents (p : Port) (bits : List Bool) (s : State) : Host.Outcome State Fault Refusal :=
  .next (s.frameEnd p .events bits (eventsRule p))

/-- ACK_EVENTS' own rule (R150): every named edge flag is cleared as it stands. -/
def ackEventsRule (p : Port) (f : FrameEnd) (s : State) : State :=
  let named := flagsOfBytes (f.arg 0) (f.arg 1) &&& edgeFlags
  (s.modPort p fun u => u.modNotify fun n => { n with flags := n.flags &&& ~~~named }).setResult p .done

/-- ACK_EVENTS frame end (R150). -/
def execAckEvents (p : Port) (bits : List Bool) (s : State) : Host.Outcome State Fault Refusal :=
  .next (s.frameEnd p .ackEvents bits (ackEventsRule p))

/-- SET_MASK's own rule (R148): the mask is replaced whole. -/
def setMaskRule (p : Port) (f : FrameEnd) (s : State) : State :=
  (s.modPort p fun u => u.modNotify fun n => { n with mask := flagsOfBytes (f.arg 0) (f.arg 1) }).setResult p .done

/-- SET_MASK frame end (R148). -/
def execSetMask (p : Port) (bits : List Bool) (s : State) : Host.Outcome State Fault Refusal :=
  .next (s.frameEnd p .setMask bits (setMaskRule p))

/-- CHANGES' own rule (R154): with at least 6 whole bytes, the entries still on the clear list leave the Changed Set. -/
def changesRule (p : Port) (f : FrameEnd) (s : State) : State :=
  if s.phase = .config then s.setResult p .wrongPhase
  else
    match f.clearList with
    | .entries l =>
      if 6 ≤ f.whole then
        (s.modPort p fun u => u.modNotify fun n => { n with changed := n.changed &&& ~~~l }).setResult p .done
      else s.setResult p .done
    | .absent | .flags _ => s.setResult p .done

/-- CHANGES frame end (R154). -/
def execChanges (p : Port) (bits : List Bool) (s : State) : Host.Outcome State Fault Refusal :=
  .next (s.frameEnd p .changes bits (changesRule p))

/-- WATCH's own rule (R13, R151). -/
def watchRule (p : Port) (f : FrameEnd) (s : State) : State :=
  if s.phase = .config then s.setResult p .wrongPhase
  else
    match entryOfByte (f.arg 0) with
    | none => s.setResult p .noEntry
    | some e =>
      match s.entry e with
      | none => s.setResult p .noEntry
      | some en =>
        if en.readable p then
          (s.modEntry e fun x => { x with watchSet := withBit x.watchSet p }).setResult p .done
        else s.setResult p .denied

/-- WATCH frame end (R151). -/
def execWatch (p : Port) (bits : List Bool) (s : State) : Host.Outcome State Fault Refusal :=
  .next (s.frameEnd p .watch bits (watchRule p))

/-- UNWATCH's own rule (R152): the port leaves the watch set, and the entry the Changed Set and a clear list. -/
def unwatchRule (p : Port) (f : FrameEnd) (s : State) : State :=
  match entryOfByte (f.arg 0) with
  | none => s.setResult p .noEntry
  | some e =>
    match s.entry e with
    | none => s.setResult p .noEntry
    | some _ =>
      (((s.modEntry e fun x => { x with watchSet := withoutBit x.watchSet p }).modPort p fun u =>
        u.modNotify fun n => { n with changed := withoutBit n.changed e, clearList := n.clearList.dropEntry e }).setResult
          p .done)

/-- UNWATCH frame end (R152). -/
def execUnwatch (p : Port) (bits : List Bool) (s : State) : Host.Outcome State Fault Refusal :=
  .next (s.frameEnd p .unwatch bits (unwatchRule p))

end Sys2Proof.Machine
end

