-- ==== Sys2Proof/Machine/Directory.lean ====
section
/-! DEFINITION. The meanings of RENEW, DIR_READ, DIR_WRITE, DIR_CLEAR and SEAL (chapters 1, 4 and 9). -/

namespace Sys2Proof.Machine

/-- RENEW's own rule (R78): the owner's lease is reloaded. -/
def renewRule (p : Port) (f : FrameEnd) (s : State) : State :=
  if s.phase = .config then s.setResult p .wrongPhase
  else
    match entryOfByte (f.arg 0) with
    | none => s.setResult p .notOwner
    | some e =>
      if (s.entry e).any fun en => en.owner = some p then (s.modEntry e Entry.reload).setResult p .done
      else s.setResult p .notOwner

/-- RENEW frame end (R78). -/
def execRenew (p : Port) (bits : List Bool) (s : State) : Host.Outcome State Fault Refusal :=
  .next (s.frameEnd p .renew bits (renewRule p))

/-- DIR_READ's own rule (R21): only the result code changes. -/
def dirReadRule (p : Port) (f : FrameEnd) (s : State) : State :=
  s.setResult p (if (entryOfByte (f.arg 0)).isSome then .done else .noEntry)

/-- DIR_READ frame end (R21). -/
def execDirRead (p : Port) (bits : List Bool) (s : State) : Host.Outcome State Fault Refusal :=
  .next (s.frameEnd p .dirRead bits (dirReadRule p))

/-- An occupied slot other than `e` holds the bus address (R3, R19). -/
def State.addressTaken (s : State) (e : EntryNo) (a : BitVec 7) : Bool :=
  (List.finRange 32).any fun k => k != e && (s.entry k).any fun en => en.address = a

/-- DIR_WRITE's own rule: the eight checks of R19 in order, and the slot filled. -/
def dirWriteRule (p : Port) (f : FrameEnd) (s : State) : State :=
  let n := (f.arg 5).toNat
  if s.phase = .run then s.setResult p .wrongPhase
  else if (s.port p).level ≠ 0 then s.setResult p .notPermitted
  else if f.args.length < 6 then s.setResult p .shortFrame
  else if n = 0 ∨ 4 < n then s.setResult p .malformed
  else if f.args.length < 6 + 5 * n then s.setResult p .shortFrame
  else if f.arg 0 ≠ 0xE0 then s.setResult p .malformed
  else
    match entryOfByte (f.arg 1), parseRecord f.args with
    | some e, some r =>
      if r.valid = false then s.setResult p .malformed
      else if s.addressTaken e r.toEntry.address then s.setResult p .dirConflict
      else (s.setEntry e (some r.toEntry)).setResult p .done
    | _, _ => s.setResult p .malformed

/-- DIR_WRITE frame end (R19). -/
def execDirWrite (p : Port) (bits : List Bool) (s : State) : Host.Outcome State Fault Refusal :=
  .next (s.frameEnd p .dirWrite bits (dirWriteRule p))

/-- DIR_CLEAR's own rule (R20). -/
def dirClearRule (p : Port) (f : FrameEnd) (s : State) : State :=
  if s.phase = .run then s.setResult p .wrongPhase
  else if (s.port p).level ≠ 0 then s.setResult p .notPermitted
  else
    match entryOfByte (f.arg 0) with
    | none => s.setResult p .noEntry
    | some e => (s.setEntry e none).setResult p .done

/-- DIR_CLEAR frame end (R20). -/
def execDirClear (p : Port) (bits : List Bool) (s : State) : Host.Outcome State Fault Refusal :=
  .next (s.frameEnd p .dirClear bits (dirClearRule p))

/-- SEAL's own rule (R169): CONFIG becomes RUN. -/
def sealRule (p : Port) (_f : FrameEnd) (s : State) : State :=
  if s.phase = .run then s.setResult p .wrongPhase
  else if (s.port p).level ≠ 0 then s.setResult p .notPermitted
  else { s with phase := .run }.setResult p .done

/-- SEAL frame end (R169). -/
def execSeal (p : Port) (bits : List Bool) (s : State) : Host.Outcome State Fault Refusal :=
  .next (s.frameEnd p .seal bits (sealRule p))

end Sys2Proof.Machine
end

