-- ==== Sys2Proof/Machine/Ports.lean ====
section
/-! DEFINITION. The meanings of HOLD, RELEASE and RESTART (chapter 7). -/

namespace Sys2Proof.Machine

/-- A frame in progress notes that its port has been held after the end of byte 0 (R45). -/
def FrameState.noteHold : FrameState → FrameState
  | .opened f => .opened { f with heldSince := f.heldSince || f.lastResult.isSome }
  | fs => fs

/-- A Port Unit, with its Notify Unit state, at a HOLD of the port (R48, R49, R123, R137, R156). -/
def PortUnit.hold (u : PortUnit) (origin : HoldOrigin) : PortUnit :=
  { u with state := .held, origin := some origin, resetCause := .hold, lastResult := .noCode, requests := [],
           completions := [], credits := 0, frame := u.frame.noteHold, deferral := none, lockedMark := false,
           notify := { u.notify with flags := 0, mask := 0, changed := 0, clearList := .absent } }

/-- The scheduler at a HOLD of port `p`: its transaction's discard mark is set and its polls are removed (R65, R101). -/
def Scheduler.hold (c : Scheduler) (p : Port) : Scheduler :=
  { c with current := c.current.map fun x => if x.port = p then { x with discard := true } else x,
           polls := Vector.ofFn fun k => (c.polls[k]).filter fun q => q.port != p }

/-- The locks that port `p` owns on the entries listed are released one after the other with reason RESET (R82). -/
def State.releaseOwned (p : Port) : List EntryNo → State × List (Port × Completion) → State × List (Port × Completion)
  | [], x => x
  | e :: es, x =>
    if (x.1.entry e).any fun en => en.owner = some p then
      let y := x.1.release e .reset
      State.releaseOwned p es (y.1, x.2 ++ y.2)
    else State.releaseOwned p es x

/-- A HOLD carried out on the target (R137), as one act. -/
def State.holdPort (s : State) (target : Port) (origin : HoldOrigin) : State :=
  let s1 := s.modPort target fun u => u.hold origin
  let s2 := { s1 with scheduler := s1.scheduler.hold target }
  let x := State.releaseOwned target (List.finRange 32) (s2, [])
  let s3 := x.1.mapEntries fun en => { en with watchSet := withoutBit en.watchSet target }
  (s3.raisePeer target).settle x.2

/-- HOLD's own rule (R136, R137): DONE for the sender; a self-HOLD leaves NONE (R133). -/
def holdRule (p : Port) (f : FrameEnd) (s : State) : State :=
  match portOfByte (f.arg 0) with
  | none => s.setResult p .badPort
  | some t =>
    if (s.port t).state = .offline then s.setResult p .badPort
    else if t ≠ p ∧ (s.port p).level ≠ 0 then s.setResult p .notPermitted
    else if (s.port t).state = .held then s.setResult p .done
    else (s.setResult p .done).holdPort t (if t = p then .self else .port p)

/-- HOLD frame end (R137). -/
def execHold (p : Port) (bits : List Bool) (s : State) : Host.Outcome State Fault Refusal :=
  .next (s.frameEnd p .hold bits (holdRule p))

/-- The sending port passes RELEASE's permission step (R140). -/
def PortUnit.mayRelease (u : PortUnit) (p t : Port) : Bool :=
  (u.state = .active && (u.level = 0 || t = p)) || (t = p && u.state = .held && u.origin = some .self)

/-- A RELEASE carried out on the target (R141), as one act. -/
def State.releasePort (s : State) (target : Port) : State :=
  (s.modPort target fun u => { u with state := .active, origin := none, lastResult := .noCode }).raisePeer target

/-- RELEASE's own rule (R140, R141): DONE for the sender; a self-RELEASE leaves NONE (R133). -/
def releaseRule (p : Port) (f : FrameEnd) (s : State) : State :=
  match portOfByte (f.arg 0) with
  | none => s.setResult p .badPort
  | some t =>
    if (s.port t).state = .offline then s.setResult p .badPort
    else if (s.port p).mayRelease p t = false then s.setResult p .notPermitted
    else if (s.port t).state = .active then s.setResult p .done
    else (s.setResult p .done).releasePort t

/-- RELEASE frame end (R141). -/
def execRelease (p : Port) (bits : List Bool) (s : State) : Host.Outcome State Fault Refusal :=
  .next (s.frameEnd p .release bits (releaseRule p))

/-- RESTART's own rule (R131, R160): a level-0 port restarts the whole part. -/
def restartRule (p : Port) (_f : FrameEnd) (s : State) : State :=
  if (s.port p).level ≠ 0 then s.setResult p .notPermitted else s.restart .restart s.resetn

/-- RESTART frame end (R160). -/
def execRestart (p : Port) (bits : List Bool) (s : State) : Host.Outcome State Fault Refusal :=
  .next (s.frameEnd p .restart bits (restartRule p))

end Sys2Proof.Machine
end

