-- ==== Sys2Proof/Machine/Heads.lean ====
section
/-! DEFINITION. The meanings of the steps that take a head without the bus: FENCE_HEAD, POLL_PARKING, LOCK_HEAD,
UNLOCK_HEAD, BREAK_HEAD and END_WITHOUT_BUS (chapters 3, 4 and 5). -/

namespace Sys2Proof.Machine

/-- FENCE_HEAD (R54): a ready FENCE whose port has no parked polls is executed with status OK. -/
def execFenceHead (p : Port) (s : State) : Host.Outcome State Fault Refusal :=
  .next (match s.readyHead p with
    | none => s
    | some r =>
      if r.kind = .fence ∧ s.parked p = 0 then
        (s.modPort p PortUnit.takeHead).settle [(p, plainRecord r .ok none)]
      else s)

/-- The slot record of a POLL at parking (R89). -/
def parkedPoll (p : Port) (r : Request) (e : EntryNo) (t : EntryType) (now : Time) : Poll :=
  { port := p, tag := r.tag, entry := e, index := effectiveIndex t r.index, mask := r.mask, matchByte := r.matchByte,
    condition := if r.condition = 0 then .untilEqual else .untilDifferent, count := r.count.toNat,
    remaining := r.count.toNat, interval := r.interval.toNat, waitLimit := r.waitLimit, lastByte := none,
    nextDue := now.toNat, blockTimer := none, cancelPending := false, state := .due }

/-- The slot and entry for a POLL head that may be parked now (R50, R53, R89): fewer than 3 of the port's polls parked,
and a slot free. -/
def State.parkingPlace (s : State) (p : Port) (r : Request) : Option (SlotNo × EntryNo × Entry) :=
  if r.kind = .poll ∧ s.parked p < 3 then
    match s.freeSlot, entryOfByte r.entry with
    | some k, some e => (s.entry e).map fun en => (k, e, en)
    | _, _ => none
  else none

/-- POLL_PARKING (R89): the poll goes to the lowest free slot as DUE, holding a credit, and is judged at once. -/
def execPollParking (p : Port) (s : State) : Host.Outcome State Fault Refusal :=
  .next (match s.readyHead p with
    | none => s
    | some r =>
      match s.parkingPlace p r with
      | none => s
      | some (k, e, en) =>
        ((s.modPort p PortUnit.takeHead).setPoll k (some (parkedPoll p r e en.type s.timeBase))).settle [])

/-- LOCK_HEAD (R72): a free entry is taken, an owned one re-leased; a head on an entry locked by another port is judged
and defers (R58). -/
def execLockHead (p : Port) (s : State) : Host.Outcome State Fault Refusal :=
  .next (match s.readyLockKind p .lock with
    | none => if (s.head p).any fun r => r.kind = .lock then s.judgeHead p else s
    | some (r, e, en) =>
      ((s.modPort p PortUnit.takeHead).modEntry e fun x => x.lockTo p r.lease.toNat).settle
        [(p, plainRecord r .ok (some (if en.owner = some p then .alreadyOwned else previousOf en.releaseReason)))])

/-- UNLOCK_HEAD (R73): the owner's lock is released with NORMAL; otherwise NOT_HELD. -/
def execUnlockHead (p : Port) (s : State) : Host.Outcome State Fault Refusal :=
  .next (match s.readyLockKind p .unlock with
    | none => s
    | some (r, e, en) =>
      if en.owner = some p then
        let x := (s.modPort p PortUnit.takeHead).release e .normal
        x.1.settle ((p, plainRecord r .ok none) :: x.2)
      else (s.modPort p PortUnit.takeHead).settle [(p, plainRecord r .notHeld none)])

/-- A BREAK that takes the lock from owner `q` (R75): BROKEN written, the lock passed to `p`, the lock-lost mark and
LOCK_BROKEN for the old owner. -/
def State.breakLock (s : State) (p q : Port) (e : EntryNo) (lease : Nat) : State :=
  ((s.markLockLost e q).modEntry e fun x => { x.lockTo p lease with releaseReason := .broken }).raise q .lockBroken

/-- BREAK_HEAD (R74): free, owned by the breaker, OUTRANKED, or the lock passes. -/
def execBreakHead (p : Port) (s : State) : Host.Outcome State Fault Refusal :=
  .next (match s.readyLockKind p .brk with
    | none => s
    | some (r, e, en) =>
      let s1 := s.modPort p PortUnit.takeHead
      match en.owner with
      | none => s1.settle [(p, plainRecord r .ok (some (previousOf en.releaseReason)))]
      | some q =>
        if q = p then s1.settle [(p, plainRecord r .ok (some .alreadyOwned))]
        else if (s.port q).level ≤ (s.port p).level then s1.settle [(p, plainRecord r .outranked none)]
        else (s1.breakLock p q e r.lease.toNat).settle [(p, plainRecord r .ok (some .broken))])

/-- END_WITHOUT_BUS (R52): the head is taken and ends LOCKED, NO_DEVICE or BUS_FAULT. -/
def execEndWithoutBus (p : Port) (s : State) : Host.Outcome State Fault Refusal :=
  .next (match s.endStatus p, s.head p with
    | some st, some r => (s.modPort p PortUnit.takeHead).settle [(p, plainRecord r st none)]
    | _, _ => s)

end Sys2Proof.Machine
end

