-- ==== Sys2Proof/Machine/Bus.lean ====
section
/-! DEFINITION. The meanings of GRANT and of the Bus Engine's reports: TRANSACTION_COMPLETE, POLL_ITERATION_COMPLETE,
LOADER_READ_COMPLETE, RECOVERY_COMPLETE, STRETCH_LIMIT and RETRY (chapters 3 and 6). -/

namespace Sys2Proof.Machine

/-! ### The arbiter (R55 to R57) -/

/-- The bus candidate at port position `p` (R55). -/
def State.portCandidate (s : State) (p : Port) : Option (Request × EntryNo × Entry) :=
  match s.readyHead p with
  | none => none
  | some r =>
    match entryOfByte r.entry with
    | none => none
    | some e =>
      match s.entry e with
      | none => none
      | some en => if isBusKind r.kind = true ∧ (en.absent = false ∨ r.kind = .probe) then some (r, e, en) else none

/-- A poll slot is DUE and its iteration may run (R55, R90): its entry is neither ABSENT nor locked by another port. -/
def State.slotMayRun (s : State) (k : SlotNo) : Option Poll :=
  (s.poll k).filter fun q => q.state = .due && (s.entry q.entry).isSome && !s.pollAbsent q && !s.pollLocked q

/-- The earlier of two slots by next-due time; ties to the one found first (R55, R90). -/
def earlierSlot (s : State) (best : Option SlotNo) (k : SlotNo) : Option SlotNo :=
  match s.slotMayRun k, best with
  | none, b => b
  | some _, none => some k
  | some q, some b => match s.slotMayRun b with
    | none => some k
    | some qb => if q.nextDue < qb.nextDue then some k else some b

/-- The candidate at position P (R55): the earliest next-due time, ties to the lower slot number. -/
def State.pollCandidate (s : State) : Option SlotNo := (List.finRange 6).foldl (earlierSlot s) none

/-- A position has a candidate. -/
def State.hasCandidate (s : State) : Position → Bool
  | .port p => (s.portCandidate p).isSome
  | .poll => s.pollCandidate.isSome

/-- The five positions in the order the arbiter searches them from a turn pointer (R56). -/
def turnOrder : Position → List Position
  | .port 0 => [.port 1, .port 2, .port 3, .poll, .port 0]
  | .port 1 => [.port 2, .port 3, .poll, .port 0, .port 1]
  | .port 2 => [.port 3, .poll, .port 0, .port 1, .port 2]
  | .port 3 => [.poll, .port 0, .port 1, .port 2, .port 3]
  | .poll => [.port 0, .port 1, .port 2, .port 3, .poll]

/-- The position the arbiter grants (R56): in RUN, with the engine READY, the first candidate in turn order. -/
def State.grantChoice (s : State) : Option Position :=
  if s.phase = .run ∧ s.engine.busState = .ready then (turnOrder s.scheduler.turn).find? s.hasCandidate else none

/-- A grant to port position `p` (R62). -/
def State.grantPort (s : State) (p : Port) (r : Request) (e : EntryNo) (en : Entry) : State :=
  let s1 := ((s.modPort p PortUnit.takeHead).reloadIfOwner e p).setCurrent
    (some { port := p, slot := none, tag := r.tag, kind := r.kind, entry := e, ownedAtGrant := en.owner = some p,
            lockLost := false, discard := false })
  ((s1.setTurn (.port p)).setEngine (s.engine.start (requestTransaction r en))).settle []

/-- A grant to position P, for poll slot `k` (R62, R95). -/
def State.grantPoll (s : State) (k : SlotNo) (q : Poll) (en : Entry) : State :=
  let s1 := ((s.setPoll k (some { q with state := .running, blockTimer := none })).reloadIfOwner q.entry q.port).setCurrent
    (some { port := q.port, slot := some k, tag := q.tag, kind := .poll, entry := q.entry, ownedAtGrant := false,
            lockLost := false, discard := false })
  ((s1.setTurn .poll).setEngine (s.engine.start (pollTransaction q en))).settle []

/-- The arbiter's grant of a position. -/
def State.grantAt (s : State) (pos : Position) : State :=
  match pos with
  | .port p =>
    match s.portCandidate p with
    | none => s
    | some (r, e, en) => s.grantPort p r e en
  | .poll =>
    match s.pollCandidate with
    | none => s
    | some k =>
      match s.poll k with
      | none => s
      | some q =>
        match s.entry q.entry with
        | none => s
        | some en => s.grantPoll k q en

/-- GRANT (R56): one transaction to the engine, which then reads the wires for its START (R115, R116). -/
def execGrant (bus : BusRead) (s : State) : Host.Outcome State Fault Refusal :=
  .next (match s.grantChoice with
    | none => s
    | some pos => (s.grantAt pos).busRuns bus.samples bus.mckLow)

/-! ### Reports -/

/-- The outcome of the engine's transaction for a requester, once it has one (R107, R112). -/
def Engine.ended (e : Engine) (req : Requester) : Option (Transaction × BusStatus) :=
  if e.busState = .busy ∧ e.recovery = none then
    match e.transaction with
    | none => none
    | some t => if t.requester = req then t.outcome.map fun o => (t, o) else none
  else none

/-- What a report step does (log 5): the engine reads the wires; if `ended` then tells an outcome, `act` takes it; the
samples left over belong to what the engine does next. -/
def State.afterReading {α : Type} (s : State) (bus : BusRead) (ended : State → Option α) (act : α → State → State) :
    State :=
  let r := s.engine.reads bus.samples
  let s1 := s.setEngine r.1
  match ended s1 with
  | none => s1.setEngine (s1.engine.stretchAfter bus.mckLow)
  | some x => (act x s1).busRuns r.2 bus.mckLow

/-- The transaction on the bus serves a port position and has ended (R64). -/
def State.requestEnded (s : State) : Option (Transaction × BusStatus) :=
  if s.scheduler.current.any fun c => c.slot = none then s.engine.ended .scheduler else none

/-- The transaction on the bus is a poll iteration and has ended (R66). -/
def State.iterationEnded (s : State) : Option (Transaction × BusStatus) :=
  if s.scheduler.current.any fun c => c.slot.isSome then s.engine.ended .scheduler else none

/-- TRANSACTION_COMPLETE (R64). -/
def execTransactionComplete (bus : BusRead) (s : State) : Host.Outcome State Fault Refusal :=
  .next (s.afterReading bus State.requestEnded fun x s1 => s1.endTransaction x.1 x.2 false)

/-- POLL_ITERATION_COMPLETE (R66, R96, R97). -/
def execPollIterationComplete (bus : BusRead) (s : State) : Host.Outcome State Fault Refusal :=
  .next (s.afterReading bus State.iterationEnded fun x s1 => s1.endTransaction x.1 x.2 false)

/-- LOADER_READ_COMPLETE (R164, R165). -/
def execLoaderReadComplete (bus : BusRead) (s : State) : Host.Outcome State Fault Refusal :=
  .next (s.afterReading bus (fun s1 => s1.engine.ended .loader) fun x s1 => s1.endTransaction x.1 x.2 false)

/-- The outcome of the engine's recovery, once it has one (R117). -/
def State.recoveryEnded (s : State) : Option (RecoveryCause × Bool) :=
  match s.engine.recovery with
  | none => none
  | some r => r.outcome.map fun ok => (r.cause, ok)

/-- RECOVERY_COMPLETE (R117). -/
def execRecoveryComplete (bus : BusRead) (s : State) : Host.Outcome State Fault Refusal :=
  .next (s.afterReading bus State.recoveryEnded fun x s1 => s1.recoveryEnds x.1 x.2)

/-- What the stretch limit does (R113, R116): a recovery fails; a START that waits for MCK is blocked; a transaction
ends BUS_STUCK, its report is taken, and a recovery begins (log 13). -/
def State.stretchLimit (s : State) : State :=
  match s.engine.recovery with
  | some r => s.recoveryEnds r.cause false
  | none =>
    match s.engine.transaction with
    | none => s
    | some t =>
      if t.atStart then s.setEngine { s.engine with recovery := some (Recovery.fresh .blockedStart), stretch := none }
      else s.endTransaction t .stuck false

/-- STRETCH_LIMIT (R113): the stretch timer has risen above 25. -/
def execStretchLimit (bus : BusRead) (s : State) : Host.Outcome State Fault Refusal :=
  .next (if s.engine.driving = true ∧ 25 < s.engine.stretch.getD 0 then
      s.stretchLimit.busRuns bus.samples bus.mckLow
    else s)

/-- RETRY (R119): the retry timer of a FAULTED bus has reached 100; a recovery with cause retry begins. -/
def execRetry (bus : BusRead) (s : State) : Host.Outcome State Fault Refusal :=
  .next (if s.engine.busState = .faulted ∧ 100 ≤ s.engine.retry.getD 0 then
      (s.setEngine (s.engine.recover .retry)).busRuns bus.samples bus.mckLow
    else s)

end Sys2Proof.Machine
end

