-- ==== Sys2Proof/Machine/Dispatch.lean ====
section
/-! DEFINITION. The meaning of every command: one arm per row of spec/opcode_table.json. -/

namespace Sys2Proof.Machine

def exec (i : Instr) (s : State) : Host.Outcome State Fault Refusal :=
  match i with
  | .powerOn resetnHigh => Sys2Proof.Machine.execPowerOn resetnHigh s
  | .resetnFall => Sys2Proof.Machine.execResetnFall s
  | .loaderStart cfga0 cfga1 bus => Sys2Proof.Machine.execLoaderStart cfga0 cfga1 bus s
  | .tick bus => Sys2Proof.Machine.execTick bus s
  | .frameOpen p => Sys2Proof.Machine.execFrameOpen p s
  | .responseSnapshot p byte0 => Sys2Proof.Machine.execResponseSnapshot p byte0 s
  | .ignoredFrame p bits => Sys2Proof.Machine.execIgnoredFrame p bits s
  | .unknownCommand p bits => Sys2Proof.Machine.execUnknownCommand p bits s
  | .status p bits => Sys2Proof.Machine.execStatus p bits s
  | .submit p bits => Sys2Proof.Machine.execSubmit p bits s
  | .fetch p bits => Sys2Proof.Machine.execFetch p bits s
  | .cancel p bits => Sys2Proof.Machine.execCancel p bits s
  | .events p bits => Sys2Proof.Machine.execEvents p bits s
  | .ackEvents p bits => Sys2Proof.Machine.execAckEvents p bits s
  | .setMask p bits => Sys2Proof.Machine.execSetMask p bits s
  | .changes p bits => Sys2Proof.Machine.execChanges p bits s
  | .watch p bits => Sys2Proof.Machine.execWatch p bits s
  | .unwatch p bits => Sys2Proof.Machine.execUnwatch p bits s
  | .renew p bits => Sys2Proof.Machine.execRenew p bits s
  | .dirRead p bits => Sys2Proof.Machine.execDirRead p bits s
  | .dirWrite p bits => Sys2Proof.Machine.execDirWrite p bits s
  | .dirClear p bits => Sys2Proof.Machine.execDirClear p bits s
  | .seal p bits => Sys2Proof.Machine.execSeal p bits s
  | .hold p bits => Sys2Proof.Machine.execHold p bits s
  | .release p bits => Sys2Proof.Machine.execRelease p bits s
  | .restart p bits => Sys2Proof.Machine.execRestart p bits s
  | .fenceHead p => Sys2Proof.Machine.execFenceHead p s
  | .pollParking p => Sys2Proof.Machine.execPollParking p s
  | .lockHead p => Sys2Proof.Machine.execLockHead p s
  | .unlockHead p => Sys2Proof.Machine.execUnlockHead p s
  | .breakHead p => Sys2Proof.Machine.execBreakHead p s
  | .endWithoutBus p => Sys2Proof.Machine.execEndWithoutBus p s
  | .grant bus => Sys2Proof.Machine.execGrant bus s
  | .transactionComplete bus => Sys2Proof.Machine.execTransactionComplete bus s
  | .pollIterationComplete bus => Sys2Proof.Machine.execPollIterationComplete bus s
  | .loaderReadComplete bus => Sys2Proof.Machine.execLoaderReadComplete bus s
  | .recoveryComplete bus => Sys2Proof.Machine.execRecoveryComplete bus s
  | .leaseExpiry e => Sys2Proof.Machine.execLeaseExpiry e s
  | .deferralExpiry p => Sys2Proof.Machine.execDeferralExpiry p s
  | .blockExpiry k => Sys2Proof.Machine.execBlockExpiry k s
  | .pollDue k => Sys2Proof.Machine.execPollDue k s
  | .stretchLimit bus => Sys2Proof.Machine.execStretchLimit bus s
  | .retry bus => Sys2Proof.Machine.execRetry bus s

end Sys2Proof.Machine
end

