-- ==== Sys2Proof/Safety.lean ====
section
/-! DEFINITION. What holds of the block in every state a run can reach, one named predicate each, with the rule that
says so. The statements in Certificates/Slice0/Obligations.lean say that every step keeps them. -/

namespace Sys2Proof.Machine

/-! ### The Bus Engine (R103, R107, R113, R117, R119, R120) -/

/-- The engine's parts agree with its bus state (R103): a transaction exactly while BUSY, a recovery of another cause
than blocked START exactly while RECOVERING, the retry timer exactly while FAULTED, and the fault indication set while
FAULTED. -/
abbrev Engine.wellShaped (e : Engine) : Prop :=
  (e.transaction.isSome = true ↔ e.busState = .busy)
    ∧ ((e.recovery.any fun r => r.cause != .blockedStart) = true ↔ e.busState = .recovering)
    ∧ ((e.recovery.any fun r => r.cause == .blockedStart) = true → e.busState = .busy)
    ∧ (e.retry.isSome = true ↔ e.busState = .faulted)
    ∧ (e.busState = .faulted → e.fault = true)

/-- The transaction on the bus is the scheduler's exactly while the current-transaction record is present (R49, R62),
which is in RUN alone; and a loader read and the start-up recovery are on the bus in LOADING alone (R121). -/
abbrev State.busOwned (s : State) : Prop :=
  (s.scheduler.current.isSome = true ↔ (s.engine.transaction.any fun t => t.requester == .scheduler) = true)
    ∧ (s.phase ≠ .run → s.scheduler.current = none)
    ∧ ((s.engine.transaction.any fun t => t.requester == .loader) = true → s.phase = .loading)
    ∧ ((s.engine.recovery.any fun r => r.cause == .startUp) = true → s.phase = .loading)

/-- The engine and the bus as a reachable state has them. -/
abbrev State.busSound (s : State) : Prop := s.engine.wellShaped ∧ s.busOwned

/-! ### Outside RUN (R17, R47, R49, R83, R102, R157) -/

/-- An entry as it stands outside RUN: unlocked, unwatched, count 0 (R14, R17). -/
def Entry.untouched (e : Entry) : Bool :=
  e.nackCount = 0 && e.owner.isNone && e.leaseValue = 0 && e.leaseRemaining = 0 && e.releaseReason = .initial
    && e.watchSet = 0#4

/-- Outside RUN every queue, the Poll Table and every Changed Set are empty, no credit is reserved, no transaction of
the scheduler is on the bus, the turn pointer rests on P, and every entry is unlocked, unwatched and PRESENT. -/
abbrev State.quietOutsideRun (s : State) : Prop :=
  s.phase ≠ .run →
    (∀ p, (s.port p).requests = [] ∧ (s.port p).completions = [] ∧ (s.port p).credits = 0
      ∧ (s.port p).deferral = none ∧ (s.port p).lockedMark = false ∧ (s.port p).notify.changed = 0#32)
    ∧ (∀ k, s.poll k = none) ∧ s.scheduler.current = none ∧ s.scheduler.turn = .poll
    ∧ ∀ e, ((s.entry e).all Entry.untouched) = true

/-- In LOADING the directory is empty and every port has its restart settings, no flag and an empty mask (R18, R123,
R143, R145); and the part is in LOADING exactly until the loader has finished (R158, R159). -/
abbrev State.loadingIsBare (s : State) : Prop :=
  (s.phase = .loading ↔ s.loader.step ≠ .finished)
    ∧ (s.phase = .loading →
      (∀ e, s.entry e = none)
      ∧ ∀ p, (s.port p).state = .active ∧ (s.port p).level = restartLevel p ∧ (s.port p).origin = none
        ∧ (s.port p).notify.flags = 0#10 ∧ (s.port p).notify.mask = 0#10)

/-! ### Ports (R68, R124, R139, R144, R147, R153) -/

/-- What a port that is HELD or OFFLINE has: nothing queued, no credit, no flag, an empty mask and Changed Set, no poll,
no lock, no place in a watch set, and no transaction whose record would be kept (R48, R68, R137, R144, R147, R153). -/
abbrev State.bare (s : State) (p : Port) : Prop :=
  (s.port p).requests = [] ∧ (s.port p).completions = [] ∧ (s.port p).credits = 0
    ∧ (s.port p).deferral = none ∧ (s.port p).lockedMark = false
    ∧ (s.port p).notify.flags = 0#10 ∧ (s.port p).notify.mask = 0#10 ∧ (s.port p).notify.changed = 0#32
    ∧ (∀ k, ((s.poll k).any fun q => q.port = p) = false)
    ∧ (∀ e, ((s.entry e).any fun x => x.owner = some p || hasBit x.watchSet p) = false)
    ∧ (s.scheduler.current.any fun c => c.port = p && !c.discard) = false

/-- Every port that is HELD or OFFLINE is bare; a port has a hold origin exactly while HELD (R123); an OFFLINE port has
no frame in progress (R144). -/
abbrev State.idlePortsBare (s : State) : Prop :=
  ∀ p, ((s.port p).state ≠ .active → s.bare p)
    ∧ ((s.port p).origin.isSome = true ↔ (s.port p).state = .held)
    ∧ ((s.port p).state = .offline → ∀ f, (s.port p).frame ≠ .opened f)

/-- Some level-0 port is ACTIVE, or HELD with origin SELF, so that it can release itself (R139). -/
abbrev State.someoneCanRelease (s : State) : Prop :=
  ∃ p, (s.port p).level = 0 ∧
    ((s.port p).state = .active ∨ ((s.port p).state = .held ∧ (s.port p).origin = some .self))

/-! ### Queues, credits and tags (R29, R31, R36, R37, R87) -/

/-- The credits port `p` should hold: one for each poll it has parked and one for its own transaction on the bus, unless
that transaction is to be discarded (R37). -/
def State.creditsDue (s : State) (p : Port) : Nat :=
  s.parked p + (if s.scheduler.current.any fun c => c.port = p && c.slot.isNone && !c.discard then 1 else 0)

/-- Credits and queues (R31, R36, R37, R87): the reserved credits are those due; records and credits together never
exceed 8; the Request Queue never holds more than 8, nor a port more than 3 poll slots. -/
abbrev State.creditsBalance (s : State) : Prop :=
  ∀ p, (s.port p).credits = s.creditsDue p ∧ (s.port p).completions.length + (s.port p).credits ≤ 8
    ∧ (s.port p).requests.length ≤ 8 ∧ s.parked p ≤ 3

/-- The tags of port `p`'s outstanding requests: queued, parked, and on the bus and not discarded (R29). -/
def State.outstandingTags (s : State) (p : Port) : List Byte :=
  (s.port p).requests.map Request.tag
    ++ ((List.finRange 6).filterMap fun k => (s.poll k).bind fun q => if q.port = p then some q.tag else none)
    ++ ((s.scheduler.current.toList.filter fun c => c.port = p && c.slot.isNone && !c.discard).map Current.tag)

/-- No tag appears twice among one port's queued, executing and parked requests (R29). -/
abbrev State.tagsDiffer (s : State) : Prop := ∀ p, (s.outstandingTags p).Nodup

/-! ### The directory and its locks (R3, R8, R68, R69, R71) -/

/-- The lock fields of an entry agree (R68, R69, R71): the remaining lease is within the lease value times 4 ms and the
value within 255; a free entry has no lease left and never the reason BROKEN. -/
abbrev Entry.lockSound (e : Entry) : Prop :=
  e.leaseRemaining ≤ e.leaseValue * 4 ∧ e.leaseValue ≤ 255
    ∧ (e.owner = none → e.leaseRemaining = 0 ∧ e.releaseReason ≠ .broken)

/-- Every occupied slot's lock fields agree. -/
abbrev State.locksSound (s : State) : Prop := ∀ e x, s.entry e = some x → x.lockSound

/-- The static fields of an entry are valid (R8). -/
def Entry.valid (e : Entry) : Bool :=
  0x08 ≤ e.address.toNat && e.address.toNat ≤ 0x77 && windowsValid e.type e.windows

/-- Every entry is valid, and no two occupied slots hold the same bus address (R3, R8). -/
abbrev State.directorySound (s : State) : Prop :=
  (∀ e x, s.entry e = some x → x.valid = true)
    ∧ ∀ e e' x x', s.entry e = some x → s.entry e' = some x' → x.address = x'.address → e = e'

/-! ### What the statements say of frames -/

/-- The frame-end command that carries command `c` (R128, section 10.7). -/
def frameEndOf (c : Command) (p : Port) (bits : List Bool) : Instr :=
  match c with
  | .status => .status p bits | .submit => .submit p bits | .fetch => .fetch p bits | .cancel => .cancel p bits
  | .events => .events p bits | .ackEvents => .ackEvents p bits | .setMask => .setMask p bits
  | .changes => .changes p bits | .watch => .watch p bits | .unwatch => .unwatch p bits | .renew => .renew p bits
  | .dirRead => .dirRead p bits | .dirWrite => .dirWrite p bits | .dirClear => .dirClear p bits
  | .seal => .seal p bits | .hold => .hold p bits | .release => .release p bits | .restart => .restart p bits

/-- A frame is in progress on port `p` whose byte 0 has been taken, and with the last `bits` its whole bytes are `b0` and
the argument bytes `args` (R128). -/
abbrev State.frameEnds (s : State) (p : Port) (bits : List Bool) (f : Frame) (b0 : Byte) (args : List Byte) : Prop :=
  (s.port p).state ≠ .offline ∧ (s.port p).frame = .opened f ∧ f.lastResult.isSome = true
    ∧ wholeBytes (f.bitsIn ++ bits) = b0 :: args

/-- The frame of command `c` passes the port-level handling: the port is ACTIVE, the phase is CONFIG or RUN, and the
argument bytes needed are there (R129, R130). -/
abbrev State.frameJudged (s : State) (p : Port) (bits : List Bool) (f : Frame) (c : Command) (args : List Byte) : Prop :=
  s.frameEnds p bits f (commandCode c) args ∧ (s.port p).state = .active ∧ s.phase ≠ .loading
    ∧ argsNeeded c ≤ args.length

/-- The port after its frame has ended with result `r` and nothing else has come of it: the frame is closed, its clear
list discarded, the result stored (R128, R149, R154). -/
def PortUnit.afterFrame (u : PortUnit) (r : ResultCode) : PortUnit :=
  { u with frame := .idle, lastResult := r, notify := { u.notify with clearList := .absent } }

/-! ### What the statements say of heads and polls -/

/-- The entry is ABSENT: its count is 3 (R14). -/
abbrev State.entryAbsent (s : State) (e : EntryNo) : Prop := ∃ x, s.entry e = some x ∧ x.nackCount = 3

/-- The entry is locked by a port other than `p` (R68). -/
abbrev State.lockedAgainst (s : State) (e : EntryNo) (p : Port) : Prop :=
  ∃ x q, s.entry e = some x ∧ x.owner = some q ∧ q ≠ p

/-- As a head of port `p`, the request is of a kind that defers and its entry is locked by another port (R58). -/
abbrev State.heldBack (s : State) (p : Port) (r : Request) : Prop :=
  r.kind ∈ ([.read, .write, .send, .recv, .probe, .lock] : List Kind)
    ∧ ∃ e, entryOfByte r.entry = some e ∧ s.lockedAgainst e p

/-- Port `p`'s head is `r`, before `rest`; the part is in RUN, the port ACTIVE, a credit free, and the head's outcome is
not fixed as LOCKED (R50). -/
abbrev State.headReady (s : State) (p : Port) (r : Request) (rest : List Request) : Prop :=
  s.phase = .run ∧ (s.port p).state = .active ∧ (s.port p).requests = r :: rest
    ∧ (s.port p).completions.length + (s.port p).credits < 8 ∧ (s.port p).lockedMark = false

/-- Port `p`'s head `r` is a bus candidate (R50, R55): ready, of a bus kind, on an entry that no other port has locked and
that is not ABSENT unless the head is a PROBE. -/
abbrev State.headIsCandidate (s : State) (p : Port) : Prop :=
  ∃ r rest e x, s.headReady p r rest ∧ r.kind ∈ ([.read, .write, .send, .recv, .probe] : List Kind)
    ∧ r.entry.toNat = e.val ∧ s.entry e = some x ∧ (x.nackCount ≠ 3 ∨ r.kind = .probe) ∧ ¬ s.lockedAgainst e p

/-- The poll `q` of slot `k` is DUE and its iteration may run (R55, R90): its entry is neither ABSENT nor locked by another
port. -/
abbrev State.slotIsCandidate (s : State) (k : SlotNo) (q : Poll) : Prop :=
  s.poll k = some q ∧ q.state = .due ∧ (s.entry q.entry).isSome = true ∧ ¬ s.entryAbsent q.entry
    ∧ ¬ s.lockedAgainst q.entry q.port

/-- What judging the head `h` of port `p` makes of its deferral timer `d` and LOCKED mark `m` (R58): on the first
occasion it is held back its timer starts at 0, or with wait limit 0 its mark is set; a timer that stands goes on; a
marked head, and one that nothing holds back, is left. -/
abbrev State.headJudged (s : State) (p : Port) (h : Option Request) (d : Option Nat) (m : Bool) (d' : Option Nat)
    (m' : Bool) : Prop :=
  (∀ r, h = some r → s.heldBack p r → m = false → r.waitLimit = 0 → d' = d ∧ m' = true)
    ∧ (∀ r, h = some r → s.heldBack p r → m = false → r.waitLimit ≠ 0 → d' = some (d.getD 0) ∧ m' = false)
    ∧ ((m = true ∨ ∀ r, h = some r → ¬ s.heldBack p r) → d' = d ∧ m' = m)

/-- Port `q`'s head `r`, before `rest`, waits for the lock of entry `e` with deferral timer `d` and takes part in an offer
of it (R60, R76): it is a LOCK of the entry, DEFERRED against the lock of another port and not fixed as LOCKED, and a
credit of its port is free. -/
abbrev State.waitsFor (s : State) (e : EntryNo) (q : Port) (r : Request) (rest : List Request) (d : Nat) : Prop :=
  (s.port q).requests = r :: rest ∧ r.kind = .lock ∧ r.entry.toNat = e.val ∧ s.lockedAgainst e q
    ∧ (s.port q).lockedMark = false ∧ (s.port q).deferral = some d
    ∧ (s.port q).completions.length + (s.port q).credits < 8

/-- Port `q`'s head `r`, before `rest`, is the one an offer of entry `e` picks: it has the largest deferral timer, ties to
the lower port number (R60, R76). -/
abbrev State.heir (s : State) (e : EntryNo) (q : Port) (r : Request) (rest : List Request) : Prop :=
  ∃ d, s.waitsFor e q r rest d
    ∧ ∀ q' r' rest' d', s.waitsFor e q' r' rest' d' → d' < d ∨ (d' = d ∧ q ≤ q')

/-- The record of a poll that ends (R98): its remaining count, and the last byte if one was read. -/
def recordOfPoll (q : Poll) (st : Status) : Completion :=
  { tag := q.tag, kind := .poll, entry := BitVec.ofNat 8 q.entry.val, status := st, lockLost := false,
    previousRelease := none, count := q.remaining, data := q.lastByte.toList }

/-- The port after its head is taken: `rest` is left, the timer and mark are discarded, one credit is reserved (R33,
R49). -/
def PortUnit.headTaken (u : PortUnit) (rest : List Request) : PortUnit :=
  { u with requests := rest, deferral := none, lockedMark := false, credits := u.credits + 1 }

/-- The record of a request that uses no bus: count 0, no data, LOCK_LOST clear (R41, R42, R52). -/
def recordWithoutBus (r : Request) (entry : Byte) (st : Status) (prev : Option PrevRelease) : Completion :=
  { tag := r.tag, kind := r.kind, entry := entry, status := st, lockLost := false, previousRelease := prev, count := 0,
    data := [] }

/-- `rec` is among the records that have joined port `p`'s Completion Queue at its tail between `s` and `t`. -/
abbrev State.recordJoins (s t : State) (p : Port) (rec : Completion) : Prop :=
  ∃ more, (t.port p).completions = (s.port p).completions ++ more ∧ rec ∈ more

/-- Between `s` and `t` records have joined port `p`'s Completion Queue for polls of the port alone that left their
slots. -/
abbrev State.onlyPollsEnd (s t : State) (p : Port) : Prop :=
  ∃ more, (t.port p).completions = (s.port p).completions ++ more
    ∧ ∀ rec ∈ more, ∃ k q st, s.poll k = some q ∧ q.port = p ∧ t.poll k = none ∧ rec = recordOfPoll q st

/-- `t` is `u` as the engine stands in `t`, heads and slots judged and `recs` having joined their queues, each using a
credit (R39, R50, R90, R91). -/
abbrev State.judgedInto (u t : State) (recs : List (Port × Completion)) : Prop := t = (u.setEngine t.engine).settle recs

/-- Between `s` and `t` the scheduler's transaction `tr` has ended BUS_STUCK (R64 to R66, R97, R111): its current record is
removed; a request's record, with the progress made, joins its port's queue, and a WRITE or SEND of count 1 or more gives
its write notice; a poll frees its slot and its record joins; of a transaction to be discarded no record is made. Heads
and slots are judged, and nothing else changes but the engine. -/
abbrev State.endsStuck (s t : State) (tr : Transaction) : Prop :=
  (t.scheduler.current = none ∧ ∀ c, s.scheduler.current = some c →
    (c.discard = true → ∀ p, s.onlyPollsEnd t p)
    ∧ (c.discard = false → c.slot = none → s.recordJoins t c.port
        { tag := c.tag, kind := c.kind, entry := BitVec.ofNat 8 c.entry.val, status := .busStuck, lockLost := c.lockLost,
          previousRelease := none, count := tr.progress, data := [] })
    ∧ ∀ k q, c.discard = false → c.slot = some k → s.poll k = some q → t.poll k = none
        ∧ s.recordJoins t q.port (recordOfPoll q (if q.cancelPending then .aborted else .busStuck)))
  ∧ ∃ (u : State) (recs : List (Port × Completion)), (u.setCurrent none).judgedInto t recs
    ∧ (s.scheduler.current = none → u = s ∧ recs = [])
    ∧ ∀ c, s.scheduler.current = some c →
      (c.slot = none →
        u = (if (c.kind = .write ∨ c.kind = .send) ∧ 1 ≤ tr.progress then s.writeNotice c.entry c.port else s)
        ∧ recs = if c.discard then [] else [(c.port,
            { tag := c.tag, kind := c.kind, entry := BitVec.ofNat 8 c.entry.val, status := .busStuck,
              lockLost := c.lockLost, previousRelease := none, count := tr.progress, data := [] })])
      ∧ ∀ k, c.slot = some k →
        (c.discard = true ∨ s.poll k = none → u = s ∧ recs = [])
        ∧ ∀ q, c.discard = false → s.poll k = some q → u = s.setPoll k none
            ∧ recs = [(q.port, recordOfPoll q (if q.cancelPending then .aborted else .busStuck))]

/-- `t` is `s` with event `f` raised in every port (R120, R147). -/
abbrev State.raisedAll (s t : State) (f : Flag) : Prop :=
  (∀ p, t.port p = (s.port p).raise f) ∧ { t with ports := s.ports } = s

/-- `t` is `s` with what the Notify Unit is told of an entry into FAULTED, the fault indication having been `fault`
(R120): BUS_FAULT when that begins a fault episode outside LOADING, otherwise nothing. -/
abbrev State.toldBusFault (s t : State) (fault : Bool) : Prop :=
  (fault = false ∧ s.phase ≠ .loading → s.raisedAll t .busFault) ∧ (fault = true ∨ s.phase = .loading → t = s)

/-- Between `s` and `t` the bus has entered FAULTED, the fault indication having been `fault` (R120): when that begins a
fault episode outside LOADING, BUS_FAULT is set in every ACTIVE port; otherwise it is set in no port. -/
abbrev State.busFaultTold (s t : State) (fault : Bool) : Prop :=
  ∀ p, hasBit (t.port p).notify.flags Flag.busFault.index = true ↔
    hasBit (s.port p).notify.flags Flag.busFault.index = true
      ∨ (fault = false ∧ s.phase ≠ .loading ∧ (s.port p).state = .active)

/-! ### What the statements say of the wires -/

/-- The lines of a clock pulse at its moments (R104): MCK is low in the low half and again at the end, and released
between; MDA has the one level throughout. -/
abbrev Engine.pulses (e : Engine) (mda : Bool) : Prop :=
  (∀ m, e.mckAt m = true ↔ m ≠ .low ∧ m ≠ .ended) ∧ ∀ m, e.mdaAt m = mda

/-- The lines of a STOP at its moments (R105): MCK is released from low and stays so; MDA is low until MCK is read high and
released for the sample. -/
abbrev Engine.stops (e : Engine) : Prop :=
  (∀ m, e.mckAt m = true ↔ m ≠ .low) ∧ ∀ m, e.mdaAt m = true ↔ m ≠ .low ∧ m ≠ .rising

/-- The samples of a byte sent and acknowledged (R106). -/
def ackedByte (b : Byte) : List Bool := bitsOfByte b ++ [false]

/-- The samples of a byte sent and refused (R106, R109). -/
def nackedByte (b : Byte) : List Bool := bitsOfByte b ++ [true]

/-- The engine, taking on transaction `t`, comes to the end of it with exactly these samples: with this status, count
and data in its report (R109 to R112). -/
abbrev Engine.endsWith (e : Engine) (t : Transaction) (samples : List Bool) (st : BusStatus) (count : Nat)
    (data : List Byte) : Prop :=
  ((e.start t).reads samples).2 = []
    ∧ ∃ t', ((e.start t).reads samples).1.transaction = some t' ∧ t'.outcome = some st
      ∧ t'.report st = { status := st, count := count, data := data }

/-- The index bytes that name index `i` on a device of the type (R4, R106). -/
def indexOnWire (t : EntryType) (i : BitVec 16) : List Byte :=
  match t with
  | .byte => []
  | .indexed8 => [BitVec.ofNat 8 i.toNat]
  | .indexed16 => [BitVec.ofNat 8 (i.toNat / 256), BitVec.ofNat 8 i.toNat]

/-! ### What the statements say of restarts and loads -/

/-- The values of R161, with cause `cause` in every port; and no frame is in progress (R123). -/
abbrev State.isRestarted (t : State) (cause : ResetCause) : Prop :=
  t.timeBase = 0 ∧ t.phase = .loading
    ∧ t.loader = { step := .resetWait, memAddress := none, staging := [], walk := 8, fault := .noFault }
    ∧ (∀ p, (t.port p).state = .active ∧ (t.port p).level = (if p = 0 then 0 else 3) ∧ (t.port p).origin = none
        ∧ (t.port p).resetCause = cause ∧ (t.port p).lastResult = .noCode ∧ (t.port p).requests = []
        ∧ (t.port p).completions = [] ∧ (t.port p).credits = 0 ∧ (t.port p).deferral = none
        ∧ (t.port p).lockedMark = false
        ∧ (t.port p).notify = { flags := 0, mask := 0, clearMode := .readClears, route := p, changed := 0,
                                clearList := .absent }
        ∧ ∀ f, (t.port p).frame ≠ .opened f)
    ∧ (∀ e, t.entry e = none)
    ∧ t.scheduler.turn = .poll ∧ t.scheduler.current = none ∧ (∀ k, t.poll k = none)
    ∧ t.engine = { busState := .ready, transaction := none, recovery := none, stretch := none, retry := none,
                   fault := false, speed := .khz100 }
    ∧ t.engine.mdaReleased = true ∧ (∀ m, t.engine.mdaAt m = true ∧ t.engine.mckAt m = true)
    ∧ ∀ n, t.notifyAsserted n = false

/-- Record `r`, of `n` windows, is the one whose marker is staged at index `pos` (sections 10.5, 10.6). -/
abbrev RawRecord.standsAt (r : RawRecord) (staged : List Byte) (pos n : Nat) : Prop :=
  r.number = staged.getD (pos + 1) 0 ∧ r.address = staged.getD (pos + 2) 0 ∧ r.type = staged.getD (pos + 3) 0
    ∧ r.lockLevel = staged.getD (pos + 4) 0 ∧ r.windows.length = n
    ∧ ∀ k w, r.windows[k]? = some w →
        w.first.toNat = 256 * (staged.getD (pos + 6 + 5 * k) 0).toNat + (staged.getD (pos + 7 + 5 * k) 0).toNat
        ∧ w.last.toNat = 256 * (staged.getD (pos + 8 + 5 * k) 0).toNat + (staged.getD (pos + 9 + 5 * k) 0).toNat
        ∧ ∀ p : Port, hasBit w.readSet p = (staged.getD (pos + 10 + 5 * k) 0).getLsbD p.val
            ∧ hasBit w.writeSet p = (staged.getD (pos + 10 + 5 * k) 0).getLsbD (4 + p.val)

/-- The conditions of R8 on a record. -/
abbrev RawRecord.meetsR8 (r : RawRecord) : Prop :=
  0x08 ≤ r.address.toNat ∧ r.address.toNat ≤ 0x77 ∧ r.type.toNat ≤ 2 ∧ r.lockLevel.toNat ≤ 3
    ∧ 1 ≤ r.windows.length ∧ r.windows.length ≤ 4 ∧ (r.type = 0x00 → r.windows.length = 1)
    ∧ (∀ w ∈ r.windows, w.first.toNat ≤ w.last.toNat ∧ (r.type = 0x00 → w.last.toNat = 0)
        ∧ (r.type = 0x01 → w.last.toNat ≤ 255))
    ∧ ∀ k w v, r.windows[k]? = some w → r.windows[k + 1]? = some v → w.last.toNat < v.first.toNat

/-- Entry `x` is what record `r` fills its slot with (R14, R17, R166): its static fields, count 0, no owner, no lease,
reason INITIAL and an empty watch set. -/
abbrev RawRecord.fills (r : RawRecord) (x : Entry) : Prop :=
  x.address.toNat = r.address.toNat ∧ r.type = (match x.type with | .byte => 0x00 | .indexed8 => 0x01 | .indexed16 => 0x02)
    ∧ x.lockLevel.val = r.lockLevel.toNat ∧ x.windows = r.windows ∧ x.nackCount = 0 ∧ x.owner = none ∧ x.leaseValue = 0
    ∧ x.leaseRemaining = 0 ∧ x.releaseReason = .initial ∧ x.watchSet = 0

/-- A restart between `s` and `t` has discarded the frame of port `q`, if one was in progress (R144, R162); a select that is
low without one stays so (log 19). -/
abbrev State.frameCut (s t : State) (q : Port) : Prop :=
  (∀ f, (s.port q).frame = .opened f → (t.port q).frame = .discarded)
    ∧ ((∀ f, (s.port q).frame ≠ .opened f) → (t.port q).frame = (s.port q).frame)

/-- `t` is `s` after a load that ended with fault `f` (R167): the directory empty, the default port settings, 100 kHz,
the code, CONFIG, and LOAD_FAULT in every port. -/
abbrev State.isLoadFault (t : State) (f : LoadFault) : Prop :=
  t.phase = .config ∧ t.loader.fault = f ∧ t.loader.step = .finished ∧ t.loader.staging = []
    ∧ (∀ e, t.entry e = none) ∧ t.engine.speed = .khz100
    ∧ ∀ p, (t.port p).state = .active ∧ (t.port p).level = (if p = 0 then 0 else 3)
        ∧ (t.port p).notify.route = p ∧ (t.port p).notify.clearMode = .readClears
        ∧ hasBit (t.port p).notify.flags Flag.loadFault.index = true

/-- `t` is `s` after a load that ended with fault `f`, LOAD_FAULT raised in every port (R145, R167); nothing else changes
but the engine. -/
abbrev State.loadFailed (s t : State) (f : LoadFault) : Prop :=
  t.isLoadFault f
    ∧ (∀ p, t.port p = PortUnit.raise { s.port p with
        state := .active, level := if p = 0 then 0 else 3, origin := none,
        notify := { (s.port p).notify with route := p, clearMode := .readClears, changed := 0, clearList := .absent } }
        .loadFault)
    ∧ { t with ports := s.ports, phase := s.phase, loader := s.loader, directory := s.directory, engine := s.engine } = s

end Sys2Proof.Machine
end

