-- ==== Sys2Proof/Certificates/Slice0/Obligations.lean ====
section
/-! DEFINITION. The statements for the provers. Each is a proposition about every state and every operand that meets its
hypotheses; where it concludes `exec c s = .next t` for an explicit `t`, everything `t` does not change is unchanged:
`setPort`, `setEntry`, `setPoll`, `setEngine`, `setCurrent` and `setTurn` each replace the one part they name. -/

open Sys2Proof Sys2Proof.Machine

/-! ### The step -/

/-- A step takes the command at the front of the queue and runs it on the rest of the queue; on an empty queue the block
idles, which is the model's choice (log 2). -/
def Obligations.StepTakesFrontCommand : Prop :=
  (∀ (c : Instr) (rest : List Instr) (s : State), s.pending = c :: rest → step s = exec c { s with pending := rest })
    ∧ ∀ s : State, s.pending = [] → step s = .next s

/-- Every command answers a next state in every state, and leaves the queue alone (log 1: a command whose event cannot
be taken in the present state changes nothing). -/
def Obligations.CommandsNeverStop : Prop :=
  ∀ (c : Instr) (s : State), ∃ t, exec c s = .next t ∧ t.pending = s.pending

/-! ### Start, restart and time -/

/-- The state after reset is a power-on's: the values of R161, cause POWER_ON, nothing queued. That RESETN is high and no
select is low is the model's choice (log 4). -/
def Obligations.ResetStateIsPowerOn : Prop :=
  State.reset.isRestarted .powerOn ∧ State.reset.pending = [] ∧ State.reset.resetn = true
    ∧ (∀ p, (State.reset.port p).frame = .idle) ∧ exec (.powerOn true) State.reset = .next State.reset

/-- A restart sets the whole part to the values of R161, from any state: POWER_ON with cause POWER_ON, RESETN_FALL with
cause PIN, and the frame end of a RESTART from an ACTIVE level-0 port in CONFIG or RUN with cause RESTART; above level
0 a RESTART gives NOT_PERMITTED and nothing else (R131). A frame in progress on any port is discarded (R144, R162), but
for the RESTART frame itself, which has ended. It is the model's reading that a select which is low without a frame
stays so through a restart (log 19), and that a fall of RESETN while it is low is again a restart (log 14). -/
def Obligations.RestartsSetWholePart : Prop :=
  ∀ s : State,
    (∀ high, ∃ t, exec (.powerOn high) s = .next t ∧ t.isRestarted .powerOn ∧ t.resetn = high ∧ t.pending = s.pending
      ∧ ∀ q, s.frameCut t q)
    ∧ (∃ t, exec .resetnFall s = .next t ∧ t.isRestarted .pin ∧ t.resetn = false ∧ t.pending = s.pending
        ∧ ∀ q, s.frameCut t q)
    ∧ ∀ (p : Port) (bits : List Bool) (f : Frame) (args : List Byte), s.frameJudged p bits f .restart args →
      ((s.port p).level = 0 →
        ∃ t, exec (.restart p bits) s = .next t ∧ t.isRestarted .restart ∧ t.resetn = s.resetn ∧ t.pending = s.pending
          ∧ (t.port p).frame = .idle ∧ ∀ q, q ≠ p → s.frameCut t q)
      ∧ ((s.port p).level ≠ 0 →
        exec (.restart p bits) s = .next (s.setPort p ((s.port p).afterFrame .notPermitted)))

/-- LOADER_START in RESET_WAIT samples the straps (0x54, plus 1 for CFGA0 and 2 for CFGA1) and begins a recovery with
cause start-up on a bus that is RECOVERING; the rest of the part is as it was (R163, R121). Outside RESET_WAIT it
changes nothing, which is the model's choice (log 1). -/
def Obligations.LoaderStartSamplesStraps : Prop :=
  ∀ (s : State) (a0 a1 : Bool) (bus : BusRead),
   (s.phase ≠ .loading ∨ s.loader.step ≠ .resetWait → exec (.loaderStart a0 a1 bus) s = .next s)
   ∧ (s.phase = .loading → s.loader.step = .resetWait →
    ∃ eng : Engine,
      exec (.loaderStart a0 a1 bus) s = .next
        { s with
          resetn := true, engine := eng,
          loader := { s.loader with
            step := .startRecovery,
            memAddress := some (BitVec.ofNat 7 (0x54 + (if a0 then 1 else 0) + (if a1 then 2 else 0))) } }
      ∧ eng.busState = .recovering ∧ eng.transaction = none ∧ (eng.recovery.any fun r => r.cause = .startUp) = true
      ∧ eng.retry = none ∧ eng.fault = s.engine.fault ∧ eng.speed = s.engine.speed)

/-- TICK moves every timer by one: the time base (below its largest value), the leases of locked entries, the deferral
timers of DEFERRED heads, the block timers of BLOCKED slots, the stretch timer while MCK stays low, the retry timer of a
FAULTED bus; and nothing else but what the engine reads on the wires (R1, R58, R70, R93, R113, R119). -/
def Obligations.TickMovesTimers : Prop :=
  ∀ (s : State) (bus : BusRead), ∃ t, exec (.tick bus) s = .next t
    ∧ (s.timeBase ≠ BitVec.allOnes 48 → t.timeBase = s.timeBase + 1 ∧ t.freeCount = s.freeCount)
    ∧ (∀ e, t.entry e = (s.entry e).map fun x =>
        if x.owner = none then x else { x with leaseRemaining := x.leaseRemaining - 1 })
    ∧ (∀ p, t.port p = if s.headState p = some .deferred then
        { s.port p with deferral := (s.port p).deferral.map fun n => min 65535 (n + 1) } else s.port p)
    ∧ (∀ k, t.poll k = (s.poll k).map fun q => if q.state = .blocked then
        { q with blockTimer := some (min 65535 (q.blockTimer.getD 0 + 1)) } else q)
    ∧ (∀ e, (s.engine.reads bus.samples).1 = e →
        t.engine = { e with
          stretch := if e.driving && bus.mckLow then some (min 26 (e.stretch.getD 0 + 1)) else none,
          retry := if e.busState = .faulted then e.retry.map fun n => min 100 (n + 1) else e.retry })
    ∧ t.scheduler.turn = s.scheduler.turn ∧ t.scheduler.current = s.scheduler.current ∧ t.phase = s.phase
    ∧ t.resetn = s.resetn ∧ t.loader = s.loader ∧ t.pending = s.pending

/-! ### Frames -/

/-- FRAME_OPEN on a port that is not OFFLINE and has no frame in progress opens one with the frame status byte, bit by
bit as it stands (R126, section 10.2; bit 7 is 0, R172); nothing else changes. On an OFFLINE port it opens no frame, and
select is low without one (R144). -/
def Obligations.FrameOpenCapturesStatus : Prop :=
  ∀ (s : State) (p : Port),
   ((s.port p).state = .offline → exec (.frameOpen p) s = .next (s.setPort p { s.port p with frame := .ignored }))
   ∧ ((s.port p).state ≠ .offline → (∀ f, (s.port p).frame ≠ .opened f) →
    ∃ b : Byte,
      exec (.frameOpen p) s = .next (s.setPort p { s.port p with
        frame := .opened { statusByte := b, bitsIn := [], lastResult := none, response := .absent, heldSince := false } })
      ∧ b.getLsbD 7 = false ∧ b.getLsbD 6 = s.engine.fault
      ∧ (b.getLsbD 5 = true ↔ (s.port p).requests.length = 8)
      ∧ (b.getLsbD 4 = true ↔ (s.port p).completions ≠ [])
      ∧ (b.getLsbD 3 = true ↔
          ∃ i : Fin 10, hasBit (s.port p).shownFlags i = true ∧ hasBit (s.port p).notify.mask i = true)
      ∧ (b.getLsbD 2 = true ↔ (s.port p).state = .held)
      ∧ (s.phase = .loading → b.extractLsb' 0 2 = 0#2) ∧ (s.phase = .config → b.extractLsb' 0 2 = 1#2)
      ∧ (s.phase = .run → b.extractLsb' 0 2 = 2#2))

/-- RESPONSE_SNAPSHOT captures the last-result byte and the response in one act: STATUS always presents the extended
status; FETCH, DIR_READ, EVENTS and CHANGES present theirs on an ACTIVE port in CONFIG or RUN; every other code, and
those on a HELD port or in LOADING, present none (R127). EVENTS in READ_CLEARS mode and CHANGES set the clear list;
EVENTS in ACK_CLEARS mode puts nothing there (R149, R154). -/
def Obligations.SnapshotCapturesResponse : Prop :=
  ∀ (s : State) (p : Port) (b0 : Byte) (f : Frame), (s.port p).state ≠ .offline → (s.port p).frame = .opened f →
    f.lastResult = none →
    ∃ (r : Response) (cl : ClearList),
      exec (.responseSnapshot p b0) s = .next (s.setPort p { s.port p with
        frame := .opened { f with
          bitsIn := f.bitsIn ++ bitsOfByte b0, lastResult := some (s.port p).lastResult, response := r,
          heldSince := decide ((s.port p).state = .held) },
        notify := { (s.port p).notify with clearList := cl } })
      ∧ (b0 = 0x00 → r = .status (s.extendedStatus p))
      ∧ ((s.port p).state = .active → s.phase ≠ .loading →
          (b0 = 0x11 → r = .record (s.port p).completions.head?) ∧ (b0 = 0x31 → r = .directory s.directory)
          ∧ (b0 = 0x20 → r = .flags (s.port p).shownFlags) ∧ (b0 = 0x23 → r = .changed (s.port p).notify.changed))
      ∧ (b0 ∉ ([0x00, 0x11, 0x31, 0x20, 0x23] : List Byte) → r = .absent)
      ∧ (b0 ≠ 0x00 → ((s.port p).state = .held ∨ s.phase = .loading) → r = .absent)
      ∧ (∀ w, r = .flags w → (s.port p).notify.clearMode = .readClears → cl = .flags (w &&& 0b1111111110#10))
      ∧ (∀ w, r = .flags w → (s.port p).notify.clearMode = .ackClears → cl = (s.port p).notify.clearList)
      ∧ (∀ w, r = .changed w → cl = .entries w)
      ∧ (r = .absent → cl = (s.port p).notify.clearList)
      ∧ (b0 ≠ 0x20 → b0 ≠ 0x23 → cl = (s.port p).notify.clearList)

/-- What a port shifts out in a frame: the frame status byte, the last-result byte, the response, then 0xFF, each byte
most significant bit first; nothing on an OFFLINE port or with select high; 0xFF in the rest of a frame that a restart
discarded (R125, R127, R144, R172). The responses are STATUS's 12 items (R135, section 10.2), a completion record or
one length byte of 0 (section 10.4), one slot with its extension (section 10.5), the event flag word and the Changed
Set (section 10.6), with the codes of section 10.7. -/
def Obligations.DataOutBytes : Prop :=
  ∀ (s : State) (p : Port) (byte1 : Byte),
    ((s.port p).state = .offline → ∀ n, s.dataOut p byte1 n = none)
    ∧ ((s.port p).frame = .idle → ∀ n, s.dataOut p byte1 n = none)
    ∧ (∀ f, (s.port p).state ≠ .offline → (s.port p).frame = .opened f →
        s.dataOut p byte1 0 = some f.statusByte
        ∧ (∀ r, f.lastResult = some r → s.dataOut p byte1 1 = some (resultCode r))
        ∧ (∀ k b, (f.response.bytes byte1)[k]? = some b → s.dataOut p byte1 (k + 2) = some b)
        ∧ ∀ k, (f.response.bytes byte1).length ≤ k → s.dataOut p byte1 (k + 2) = some 0xFF)
    ∧ ((s.port p).state ≠ .offline → (s.port p).frame = .discarded → ∀ n, s.dataOut p byte1 n = some 0xFF)
    ∧ ((s.port p).state ≠ .offline → (s.port p).frame = .ignored → ∀ n, (s.dataOut p byte1 n).isSome = true)
    ∧ (∀ k, s.dataOutBit p byte1 k = (s.dataOut p byte1 (k / 8)).map fun b => b.getLsbD (7 - k % 8))
    ∧ (Response.absent.bytes byte1 = [] ∧ (∀ bs, (Response.status bs).bytes byte1 = bs)
        ∧ (Response.record none).bytes byte1 = [0x00])
    ∧ (∀ c : Completion, ∃ fl : Byte,
        (Response.record (some c)).bytes byte1 = [BitVec.ofNat 8 (8 + c.data.length), c.tag, kindCode c.kind, c.entry,
          statusCode c.status, fl, BitVec.ofNat 8 (c.count / 256), BitVec.ofNat 8 (c.count % 256)] ++ c.data
        ∧ fl.getLsbD 7 = c.lockLost ∧ fl.extractLsb' 3 4 = 0#4
        ∧ fl.extractLsb' 0 3 = match c.previousRelease with
            | none => 0#3 | some .initial => 1#3 | some .normal => 2#3 | some .expired => 3#3 | some .broken => 4#3
            | some .reset => 5#3 | some .alreadyOwned => 6#3)
    ∧ (∀ slots : Vector (Option Entry) 32,
        ((32 ≤ byte1.toNat ∨ ∃ e : EntryNo, byte1.toNat = e.val ∧ slots[e] = none) →
          (Response.directory slots).bytes byte1 = [0x00, byte1, 0x00, 0x00, 0x00, 0x00, 0xFF, 0x00, 0xFF, 0x00, 0x00, 0x00])
        ∧ ∀ (e : EntryNo) (x : Entry), byte1.toNat = e.val → slots[e] = some x →
          (Response.directory slots).bytes byte1 =
            [0xE0, byte1, BitVec.ofNat 8 x.address.toNat,
             match x.type with | .byte => 0x00 | .indexed8 => 0x01 | .indexed16 => 0x02,
             BitVec.ofNat 8 x.lockLevel.val, BitVec.ofNat 8 x.windows.length]
            ++ (x.windows.flatMap fun w =>
                [BitVec.ofNat 8 (w.first.toNat / 256), BitVec.ofNat 8 w.first.toNat, BitVec.ofNat 8 (w.last.toNat / 256),
                 BitVec.ofNat 8 w.last.toNat, BitVec.ofNat 8 (16 * w.writeSet.toNat + w.readSet.toNat)])
            ++ [if x.nackCount = 0 then 0x00 else if x.nackCount = 3 then 0x02 else 0x01, BitVec.ofNat 8 x.nackCount.val,
                match x.owner with | none => 0xFF | some q => BitVec.ofNat 8 q.val,
                BitVec.ofNat 8 (x.leaseRemaining / 256), BitVec.ofNat 8 (x.leaseRemaining % 256),
                BitVec.ofNat 8 x.watchSet.toNat])
    ∧ (∀ w : FlagSet, ((Response.flags w).bytes byte1).length = 2
        ∧ ∀ m < 2, ∀ j < 8, (((Response.flags w).bytes byte1).getD m 0).getLsbD j = w.getLsbD (8 * m + j))
    ∧ (∀ w : EntrySet, ((Response.changed w).bytes byte1).length = 4
        ∧ ∀ m < 4, ∀ j < 8, (((Response.changed w).bytes byte1).getD m 0).getLsbD j = w.getLsbD (8 * m + j))
    ∧ [Flag.completion, .change, .lockBroken, .leaseExpired, .deviceLost, .deviceBack, .busFault, .busOk, .loadFault,
        .peer].map Flag.index = [0, 1, 2, 3, 4, 5, 6, 7, 8, 9]
    ∧ [Kind.read, .write, .send, .recv, .poll, .probe, .lock, .unlock, .brk, .fence].map kindCode
      = [0x00, 0x01, 0x02, 0x03, 0x04, 0x05, 0x06, 0x07, 0x08, 0x09]
    ∧ [Status.ok, .nackAddr, .nackData, .noDevice, .busStuck, .busFault, .locked, .exhausted, .aborted, .notHeld,
        .outranked].map statusCode = [0x00, 0x01, 0x02, 0x03, 0x04, 0x05, 0x06, 0x07, 0x08, 0x09, 0x0A]
    ∧ [ResultCode.done, .badCommand, .shortFrame, .notReady, .wrongPhase, .notPermitted, .queueFull, .dupTag, .malformed,
        .noEntry, .badKind, .badRange, .denied, .notFound, .inFlight, .notOwner, .empty, .held, .dirConflict, .badPort,
        .noCode].map resultCode
      = [0x00, 0x01, 0x02, 0x03, 0x04, 0x05, 0x06, 0x07, 0x08, 0x09, 0x0A, 0x0B, 0x0C, 0x0D, 0x0E, 0x0F, 0x10, 0x11, 0x12,
         0x13, 0xFF]
    ∧ [LoadFault.noFault, .noMemory, .busError, .badSignature, .badVersion, .badHeader, .badRecord, .order, .dupAddress,
        .tooLong, .checksum].map loadFaultCode = [0x00, 0x01, 0x02, 0x03, 0x04, 0x05, 0x06, 0x07, 0x08, 0x09, 0x0A]
    ∧ ∃ b : Byte, s.extendedStatus p =
        [b, BitVec.ofNat 8 (s.port p).level.val,
         match s.engine.busState with | .ready => 0x00 | .busy => 0x01 | .recovering => 0x02 | .faulted => 0x03,
         match (s.port p).origin with | none => 0xFF | some .self => 0x04 | some (.port q) => BitVec.ofNat 8 q.val,
         match (s.port p).resetCause with | .powerOn => 0x00 | .pin => 0x01 | .restart => 0x02 | .hold => 0x03,
         resultCode (s.port p).lastResult, BitVec.ofNat 8 (s.port p).requests.length,
         BitVec.ofNat 8 (s.port p).completions.length, BitVec.ofNat 8 (s.port p).credits, BitVec.ofNat 8 (s.parked p),
         loadFaultCode s.loader.fault, BitVec.ofNat 8 s.occupied]
      ∧ b.getLsbD 3 = s.engine.fault ∧ (b.getLsbD 2 = true ↔ (s.port p).state = .held) ∧ b.extractLsb' 4 4 = 0#4
      ∧ (s.phase = .loading → b.extractLsb' 0 2 = 0#2) ∧ (s.phase = .config → b.extractLsb' 0 2 = 1#2)
      ∧ (s.phase = .run → b.extractLsb' 0 2 = 2#2)

/-- IGNORED_FRAME: a frame with no whole byte is closed and changes nothing else, not even the last result code (R128).
UNKNOWN_COMMAND: a code that names no command gives BAD_COMMAND in any phase, on an ACTIVE or a HELD port, and has no
other effect (R129, step 1; section 10.7). The end of a frame that a restart discarded is not judged, whatever the
command: select is high again and nothing else changes (R144, R162). A frame end with no frame changes nothing, which is
the model's reading (log 12). -/
def Obligations.FramesWithoutCommand : Prop :=
  ∀ (s : State) (p : Port) (bits : List Bool) (f : Frame),
    ((s.port p).frame = .opened f → f.lastResult = none → (f.bitsIn ++ bits).length < 8 →
      exec (.ignoredFrame p bits) s = .next (s.setPort p { s.port p with frame := .idle }))
    ∧ ((s.port p).frame = .discarded → ∀ i : Instr,
        (i = .ignoredFrame p bits ∨ i = .unknownCommand p bits ∨ ∃ c, i = frameEndOf c p bits) →
        exec i s = .next (s.setPort p { s.port p with frame := .idle }))
    ∧ ((s.port p).frame = .idle → ∀ i : Instr,
        (i = .ignoredFrame p bits ∨ i = .unknownCommand p bits ∨ ∃ c, i = frameEndOf c p bits) → exec i s = .next s)
    ∧ ∀ (b0 : Byte) (args : List Byte), s.frameEnds p bits f b0 args →
      b0 ∉ ([0x00, 0x10, 0x11, 0x12, 0x20, 0x21, 0x22, 0x23, 0x24, 0x25, 0x30, 0x31, 0x40, 0x41, 0x42, 0x50, 0x51, 0x5F]
        : List Byte) →
      exec (.unknownCommand p bits) s = .next (s.setPort p ((s.port p).afterFrame .badCommand))

/-- The port-level handling of the 18 commands (R129, R130): HELD on a held port but for STATUS and RELEASE; then
NOT_READY in LOADING but for STATUS; then SHORT_FRAME below the argument bytes needed; each with no other effect. The
codes that name the commands are those of section 10.7. -/
def Obligations.PortLevelHandlingRefuses : Prop :=
  [Command.status, .submit, .fetch, .cancel, .events, .ackEvents, .setMask, .changes, .watch, .unwatch, .renew, .dirRead,
      .dirWrite, .dirClear, .seal, .hold, .release, .restart].map commandCode
    = [0x00, 0x10, 0x11, 0x12, 0x20, 0x21, 0x22, 0x23, 0x24, 0x25, 0x30, 0x31, 0x40, 0x41, 0x42, 0x50, 0x51, 0x5F]
  ∧ ∀ (s : State) (c : Command) (p : Port) (bits : List Bool) (f : Frame) (args : List Byte),
    s.frameEnds p bits f (commandCode c) args →
    ((s.port p).state = .held → c ≠ .status → c ≠ .release →
      exec (frameEndOf c p bits) s = .next (s.setPort p ((s.port p).afterFrame .held)))
    ∧ ((s.port p).state = .active ∨ c = .release → s.phase = .loading → c ≠ .status →
      exec (frameEndOf c p bits) s = .next (s.setPort p ((s.port p).afterFrame .notReady)))
    ∧ ((s.port p).state = .active ∨ c = .release → s.phase ≠ .loading →
      (c ∈ ([.cancel, .watch, .unwatch, .renew, .dirRead, .dirClear, .hold, .release] : List Command) ∧ args.length < 1
        ∨ c ∈ ([.setMask, .ackEvents] : List Command) ∧ args.length < 2 ∨ c = .submit ∧ args.length < 8) →
      exec (frameEndOf c p bits) s = .next (s.setPort p ((s.port p).afterFrame .shortFrame)))

/-- The refusals by phase and privilege of frames that pass the port-level handling: phase first, then level (R131). -/
def Obligations.PhaseAndPrivilegeRefuse : Prop :=
  ∀ (s : State) (c : Command) (p : Port) (bits : List Bool) (f : Frame) (args : List Byte),
    s.frameJudged p bits f c args →
    (s.phase = .config → c ∈ ([.submit, .cancel, .fetch, .changes, .watch, .renew] : List Command) →
      exec (frameEndOf c p bits) s = .next (s.setPort p ((s.port p).afterFrame .wrongPhase)))
    ∧ (s.phase = .run → c ∈ ([.dirWrite, .dirClear, .seal] : List Command) →
      exec (frameEndOf c p bits) s = .next (s.setPort p ((s.port p).afterFrame .wrongPhase)))
    ∧ (s.phase = .config → (s.port p).level ≠ 0 → c ∈ ([.dirWrite, .dirClear, .seal] : List Command) →
      exec (frameEndOf c p bits) s = .next (s.setPort p ((s.port p).afterFrame .notPermitted)))

/-- STATUS ends DONE in every phase, on an ACTIVE or a HELD port, and changes nothing else (R134); DIR_READ ends DONE for
entry numbers 0 to 31 and NO_ENTRY above, and changes nothing else (R21). -/
def Obligations.StatusAndDirReadEnd : Prop :=
  ∀ (s : State) (p : Port) (bits : List Bool) (f : Frame) (args : List Byte),
    (s.frameEnds p bits f 0x00 args → exec (.status p bits) s = .next (s.setPort p ((s.port p).afterFrame .done)))
    ∧ ∀ n more, args = n :: more → s.frameJudged p bits f .dirRead args →
      exec (.dirRead p bits) s = .next (s.setPort p ((s.port p).afterFrame (if n.toNat < 32 then .done else .noEntry)))

/-! ### Requests -/

/-- SUBMIT in RUN (R25 to R30): MALFORMED, QUEUE_FULL at 8 queued, DUP_TAG for an outstanding tag (queued, on the bus
and not discarded, or parked: R29, R48), the access check's code, or DONE with the request at the tail of the queue;
the head, the request itself if it is at once the head, is judged: held back for the first time its timer starts at 0
or it is fixed as LOCKED, and otherwise its timer and mark stand (R58). Nothing else changes. -/
def Obligations.SubmitRunsSixChecks : Prop :=
  ∀ (s : State) (p : Port) (bits : List Bool) (f : Frame) (args : List Byte) (taken : Byte → Prop),
    s.frameJudged p bits f .submit args → s.phase = .run →
    (∀ tag, taken tag ↔ (∃ x ∈ (s.port p).requests, x.tag = tag)
      ∨ (∃ c, s.scheduler.current = some c ∧ c.port = p ∧ c.discard = false ∧ c.tag = tag)
      ∨ ∃ k q, s.poll k = some q ∧ q.port = p ∧ q.tag = tag) →
    (decodeRequest args = none → exec (.submit p bits) s = .next (s.setPort p ((s.port p).afterFrame .malformed)))
    ∧ ∀ r, decodeRequest args = some r →
      (8 ≤ (s.port p).requests.length →
        exec (.submit p bits) s = .next (s.setPort p ((s.port p).afterFrame .queueFull)))
      ∧ ((s.port p).requests.length < 8 → taken r.tag →
        exec (.submit p bits) s = .next (s.setPort p ((s.port p).afterFrame .dupTag)))
      ∧ ((s.port p).requests.length < 8 → ¬ taken r.tag → ∀ code, s.accessCheck p r = some code →
        exec (.submit p bits) s = .next (s.setPort p ((s.port p).afterFrame code)))
      ∧ ((s.port p).requests.length < 8 → ¬ taken r.tag → s.accessCheck p r = none →
        ∃ (d : Option Nat) (m : Bool),
          exec (.submit p bits) s = .next (s.setPort p { (s.port p).afterFrame .done with
            requests := (s.port p).requests ++ [r], deferral := d, lockedMark := m })
          ∧ s.headJudged p ((s.port p).requests ++ [r]).head? (s.port p).deferral (s.port p).lockedMark d m)

/-- The well-formed step (R27): which argument bytes make a request, by kind, and which field each byte fills (section
10.3): tag, kind, entry, wait limit, index high and low, length, condition; then the data, or mask, match, count high
and low and interval, or the lease. -/
def Obligations.WellFormedRequests : Prop :=
  ∀ (tag entry wait ih il len cond : Byte) (tail : List Byte) (k : Kind),
    ((decodeRequest (tag :: kindCode k :: entry :: wait :: ih :: il :: len :: cond :: tail)).isSome = true ↔
      match k with
      | .read => (1 ≤ len.toNat ∧ len.toNat ≤ 16) ∧ tail.length = 0
      | .write => (1 ≤ len.toNat ∧ len.toNat ≤ 16) ∧ tail.length = len.toNat
      | .send => tail.length = 1
      | .poll => tail.length = 5 ∧ cond.toNat ≤ 1
          ∧ 1 ≤ 256 * (tail.getD 2 0).toNat + (tail.getD 3 0).toNat
          ∧ 256 * (tail.getD 2 0).toNat + (tail.getD 3 0).toNat ≤ 4096
      | .lock | .brk => tail.length = 1 ∧ tail.getD 0 0 ≠ 0
      | .recv | .probe | .unlock | .fence => tail.length = 0)
    ∧ (∀ r, decodeRequest (tag :: kindCode k :: entry :: wait :: ih :: il :: len :: cond :: tail) = some r →
        r.tag = tag ∧ r.kind = k ∧ r.entry = entry ∧ r.waitLimit = wait ∧ r.index.toNat = 256 * ih.toNat + il.toNat
        ∧ r.length = len ∧ r.condition = cond
        ∧ (k = .write ∨ k = .send → r.data = tail)
        ∧ (k = .poll → r.mask = tail.getD 0 0 ∧ r.matchByte = tail.getD 1 0
            ∧ r.count.toNat = 256 * (tail.getD 2 0).toNat + (tail.getD 3 0).toNat ∧ r.interval = tail.getD 4 0)
        ∧ (k = .lock ∨ k = .brk → r.lease = tail.getD 0 0))
    ∧ [Kind.read, .write, .send, .recv, .poll, .probe, .lock, .unlock, .brk, .fence].map kindCode
      = [0x00, 0x01, 0x02, 0x03, 0x04, 0x05, 0x06, 0x07, 0x08, 0x09]
    ∧ ∀ kind : Byte, 0x0A ≤ kind.toNat →
        decodeRequest (tag :: kind :: entry :: wait :: ih :: il :: len :: cond :: tail) = none

/-- The access check (R9 to R12), its steps in order: a FENCE skips it; NO_ENTRY for a number above 31 or an empty
slot; then, against a valid entry, BAD_KIND where the kind does not suit the type, BAD_RANGE where no window holds both
ends of the range of a READ, WRITE or POLL, DENIED without the right the kind needs, and otherwise the request passes.
-/
def Obligations.AccessGrantedExactly : Prop :=
  ∀ (s : State) (p : Port) (r : Request),
    (r.kind = .fence → s.accessCheck p r = none)
    ∧ (r.kind ≠ .fence → (32 ≤ r.entry.toNat ∨ ∃ e : EntryNo, r.entry.toNat = e.val ∧ s.entry e = none) →
        s.accessCheck p r = some .noEntry)
    ∧ ∀ (e : EntryNo) (x : Entry) (lo hi : Nat) (suits ranged right : Prop) (holds : Window → Prop),
      r.entry.toNat = e.val → s.entry e = some x → x.valid = true → r.kind ≠ .fence →
      (r.kind = .read ∨ r.kind = .write → 1 ≤ r.length.toNat) →
      (suits ↔ match r.kind with
        | .read | .write | .poll => x.type ≠ .byte
        | .send | .recv => x.type = .byte
        | .probe | .lock | .unlock | .brk | .fence => True) →
      (ranged ↔ r.kind ∈ ([.read, .write, .poll] : List Kind)) →
      (lo = match x.type with | .byte => 0 | .indexed8 => r.index.toNat % 256 | .indexed16 => r.index.toNat) →
      (hi = if r.kind = .poll then lo else lo + r.length.toNat - 1) →
      (∀ w, holds w ↔ w.first.toNat ≤ lo ∧ hi ≤ w.last.toNat) →
      (right ↔ match r.kind with
        | .read | .poll => ∃ w ∈ x.windows, holds w ∧ hasBit w.readSet p = true
        | .write => ∃ w ∈ x.windows, holds w ∧ hasBit w.writeSet p = true
        | .recv | .probe => ∃ w ∈ x.windows, hasBit w.readSet p = true
        | .send => ∃ w ∈ x.windows, hasBit w.writeSet p = true
        | .lock | .brk => (∃ w ∈ x.windows, hasBit w.writeSet p = true) ∧ (s.port p).level ≤ x.lockLevel
        | .unlock | .fence => True) →
      (¬ suits → s.accessCheck p r = some .badKind)
      ∧ (suits → ranged → (∀ w ∈ x.windows, ¬ holds w) → s.accessCheck p r = some .badRange)
      ∧ (suits → (ranged → ∃ w ∈ x.windows, holds w) → ¬ right → s.accessCheck p r = some .denied)
      ∧ (suits → (ranged → ∃ w ∈ x.windows, holds w) → right → s.accessCheck p r = none)

/-- FETCH in RUN: a presented record leaves the queue when the frame held its length plus 2 whole bytes, and stays
otherwise, DONE in both cases (R46); a snapshot without a record gives EMPTY; a port held at or after the end of byte 0
gets HELD (R45). -/
def Obligations.FetchTakesOrKeeps : Prop :=
  ∀ (s : State) (p : Port) (bits : List Bool) (f : Frame) (args : List Byte), s.frameJudged p bits f .fetch args →
    s.phase = .run →
    (f.heldSince = true → exec (.fetch p bits) s = .next (s.setPort p ((s.port p).afterFrame .held)))
    ∧ (f.heldSince = false → f.response = .record none ∨ f.response = .absent →
        exec (.fetch p bits) s = .next (s.setPort p ((s.port p).afterFrame .empty)))
    ∧ ∀ r, f.heldSince = false → f.response = .record (some r) →
        (8 + r.data.length + 2 ≤ args.length + 1 →
          exec (.fetch p bits) s = .next (s.setPort p { (s.port p).afterFrame .done with
            completions := (s.port p).completions.tail }))
        ∧ (args.length + 1 < 8 + r.data.length + 2 →
          exec (.fetch p bits) s = .next (s.setPort p ((s.port p).afterFrame .done)))

/-- CANCEL in RUN by where the tag is found (R34): in the Request Queue it is removed without a record, the timer and
mark of a cancelled head go with it, and the head that is then first is judged (R35, R58); a parked poll that is not
RUNNING ends ABORTED and a RUNNING one is marked (R99); a bus request on the bus gives IN_FLIGHT; elsewhere, and
for a tag that only a transaction to be discarded still carries (R48), NOT_FOUND. -/
def Obligations.CancelByPlace : Prop :=
  ∀ (s : State) (p : Port) (bits : List Bool) (f : Frame) (tag : Byte) (more : List Byte),
    s.frameJudged p bits f .cancel (tag :: more) → s.phase = .run →
    ((∃ x ∈ (s.port p).requests, x.tag = tag) →
      ∃ (d : Option Nat) (m : Bool), exec (.cancel p bits) s = .next (s.setPort p { (s.port p).afterFrame .done with
        requests := (s.port p).requests.eraseP fun x => x.tag = tag, deferral := d, lockedMark := m })
        ∧ (∀ x rest, (s.port p).requests = x :: rest →
            (x.tag ≠ tag → s.headJudged p (some x) (s.port p).deferral (s.port p).lockedMark d m)
            ∧ (x.tag = tag → s.headJudged p rest.head? none false d m)))
    ∧ ((∀ x ∈ (s.port p).requests, x.tag ≠ tag) →
      (∀ k q, s.poll k = some q → q.port = p → q.tag = tag →
        (∀ k' q', s.poll k' = some q' → q'.port = p → q'.tag = tag → k' = k) →
        (q.state = .running →
          exec (.cancel p bits) s = .next
            ((s.setPort p ((s.port p).afterFrame .done)).setPoll k (some { q with cancelPending := true })))
        ∧ (q.state ≠ .running →
          exec (.cancel p bits) s = .next ((s.setPort p { (s.port p).afterFrame .done with
            credits := (s.port p).credits - 1,
            completions := (s.port p).completions ++ [{
              tag := tag, kind := .poll, entry := BitVec.ofNat 8 q.entry.val, status := .aborted, lockLost := false,
              previousRelease := none, count := q.remaining, data := q.lastByte.toList }] }).setPoll k none)))
      ∧ ((∀ k q, s.poll k = some q → q.port = p → q.tag ≠ tag) →
        (∀ c, s.scheduler.current = some c → c.slot = none → c.port = p → c.tag = tag → c.discard = false →
          exec (.cancel p bits) s = .next (s.setPort p ((s.port p).afterFrame .inFlight)))
        ∧ ((∀ c, s.scheduler.current = some c → c.slot = none → c.port = p → c.tag = tag → c.discard = true) →
          exec (.cancel p bits) s = .next (s.setPort p ((s.port p).afterFrame .notFound)))))

/-! ### Events and change notices -/

/-- EVENTS on an ACTIVE port: with at least 4 whole bytes the flags still on the clear list are cleared and no others;
with fewer, or with no clear list of flags, none; DONE either way (R149). CHANGES in RUN: with at least 6 whole bytes
the entries still on the clear list leave the Changed Set and no others, otherwise none; DONE, and no flag changes
(R154). -/
def Obligations.EventsAndChangesClearShown : Prop :=
  ∀ (s : State) (p : Port) (bits : List Bool) (f : Frame) (args : List Byte),
    (s.frameJudged p bits f .events args →
      ∃ fl : FlagSet,
        exec (.events p bits) s = .next (s.setPort p { (s.port p).afterFrame .done with
          notify := { ((s.port p).afterFrame .done).notify with flags := fl } })
        ∧ (∀ l, (s.port p).notify.clearList = .flags l → 4 ≤ args.length + 1 →
            ∀ i : Fin 10, hasBit fl i = (hasBit (s.port p).notify.flags i && !hasBit l i))
        ∧ ((args.length + 1 < 4 ∨ ∀ l, (s.port p).notify.clearList ≠ .flags l) → fl = (s.port p).notify.flags))
    ∧ (s.frameJudged p bits f .changes args → s.phase = .run →
      ∃ ch : EntrySet,
        exec (.changes p bits) s = .next (s.setPort p { (s.port p).afterFrame .done with
          notify := { ((s.port p).afterFrame .done).notify with changed := ch } })
        ∧ (∀ l, (s.port p).notify.clearList = .entries l → 6 ≤ args.length + 1 →
            ∀ e : EntryNo, hasBit ch e = (hasBit (s.port p).notify.changed e && !hasBit l e))
        ∧ ((args.length + 1 < 6 ∨ ∀ l, (s.port p).notify.clearList ≠ .entries l) → ch = (s.port p).notify.changed))

/-- ACK_EVENTS clears every named edge flag and no other, COMPLETION's position being ignored (R150); SET_MASK replaces
the mask by the ten named positions (R148); both end DONE and change nothing else. The first byte names flags 0 to 7, the
second 8 and 9 (section 10.6). -/
def Obligations.AckEventsAndSetMask : Prop :=
  ∀ (s : State) (p : Port) (bits : List Bool) (f : Frame) (b0 b1 : Byte) (more : List Byte) (named : Fin 10 → Bool),
    (∀ i, named i = if i.val < 8 then b0.getLsbD i.val else b1.getLsbD (i.val - 8)) →
    (s.frameJudged p bits f .ackEvents (b0 :: b1 :: more) →
      ∃ fl : FlagSet,
        exec (.ackEvents p bits) s = .next (s.setPort p { (s.port p).afterFrame .done with
          notify := { ((s.port p).afterFrame .done).notify with flags := fl } })
        ∧ ∀ i, hasBit fl i = (hasBit (s.port p).notify.flags i && !(named i && i != 0)))
    ∧ (s.frameJudged p bits f .setMask (b0 :: b1 :: more) →
      ∃ mk : FlagSet,
        exec (.setMask p bits) s = .next (s.setPort p { (s.port p).afterFrame .done with
          notify := { ((s.port p).afterFrame .done).notify with mask := mk } })
        ∧ ∀ i, hasBit mk i = named i)

/-- WATCH: WRONG_PHASE in CONFIG; in RUN NO_ENTRY for an empty slot or a number above 31, DENIED without read right in
any window, otherwise DONE with the port in the watch set (R13, R151). UNWATCH in CONFIG or RUN: NO_ENTRY for an empty
slot or a number above 31; otherwise DONE, the port leaves the watch set and the entry the port's Changed Set; no flag
changes (R152). Nothing else changes. -/
def Obligations.WatchAndUnwatch : Prop :=
  ∀ (s : State) (p : Port) (bits : List Bool) (f : Frame) (n : Byte) (more : List Byte),
    (s.frameJudged p bits f .watch (n :: more) →
      (s.phase = .config → exec (.watch p bits) s = .next (s.setPort p ((s.port p).afterFrame .wrongPhase)))
      ∧ (s.phase = .run →
        (32 ≤ n.toNat → exec (.watch p bits) s = .next (s.setPort p ((s.port p).afterFrame .noEntry)))
        ∧ ∀ e : EntryNo, n.toNat = e.val →
          (s.entry e = none → exec (.watch p bits) s = .next (s.setPort p ((s.port p).afterFrame .noEntry)))
          ∧ ∀ x, s.entry e = some x →
            ((∀ w ∈ x.windows, hasBit w.readSet p = false) →
              exec (.watch p bits) s = .next (s.setPort p ((s.port p).afterFrame .denied)))
            ∧ ((∃ w ∈ x.windows, hasBit w.readSet p = true) →
              ∃ ws : PortSet, exec (.watch p bits) s = .next
                  ((s.setPort p ((s.port p).afterFrame .done)).setEntry e (some { x with watchSet := ws }))
                ∧ ∀ q, hasBit ws q = (hasBit x.watchSet q || q == p))))
    ∧ (s.frameJudged p bits f .unwatch (n :: more) →
      (32 ≤ n.toNat → exec (.unwatch p bits) s = .next (s.setPort p ((s.port p).afterFrame .noEntry)))
      ∧ ∀ e : EntryNo, n.toNat = e.val →
        (s.entry e = none → exec (.unwatch p bits) s = .next (s.setPort p ((s.port p).afterFrame .noEntry)))
        ∧ ∀ x, s.entry e = some x →
          ∃ (ws : PortSet) (ch : EntrySet), exec (.unwatch p bits) s = .next
              ((s.setPort p { (s.port p).afterFrame .done with
                notify := { ((s.port p).afterFrame .done).notify with changed := ch } }).setEntry e
                  (some { x with watchSet := ws }))
            ∧ (∀ q, hasBit ws q = (hasBit x.watchSet q && q != p))
            ∧ ∀ e', hasBit ch e' = (hasBit (s.port p).notify.changed e' && e' != e))

/-- A write notice adds the entry to the Changed Set of every watcher other than the writer, takes the entry and no other
off a clear list of entries there, and then raises CHANGE in the port; no other port and nothing else changes (R153).
Raising any event sets its flag in an ACTIVE port and takes it off a clear list of flags, leaves every other flag and
all else, and does nothing in a HELD or OFFLINE port (R147, R149). -/
def Obligations.WriteNoticeTellsWatchers : Prop :=
  (∀ (u : PortUnit) (f : Flag),
    (u.state ≠ .active → u.raise f = u)
    ∧ (u.state = .active → ∃ (fl : FlagSet) (cl : ClearList),
        u.raise f = { u with notify := { u.notify with flags := fl, clearList := cl } }
        ∧ (∀ i, hasBit fl i = (hasBit u.notify.flags i || i == f.index))
        ∧ (∀ l, u.notify.clearList = .flags l →
            ∃ l', cl = .flags l' ∧ ∀ i, hasBit l' i = (hasBit l i && i != f.index))
        ∧ ((∀ l, u.notify.clearList ≠ .flags l) → cl = u.notify.clearList)))
  ∧ ∀ (s : State) (e : EntryNo) (x : Entry) (writer : Port), s.entry e = some x →
    ∃ t, s.writeNotice e writer = t
      ∧ (∀ q, q = writer ∨ hasBit x.watchSet q = false → t.port q = s.port q)
      ∧ (∀ q, q ≠ writer → hasBit x.watchSet q = true →
          ∃ (ch : EntrySet) (cl : ClearList),
            t.port q = PortUnit.raise
              { s.port q with notify := { (s.port q).notify with changed := ch, clearList := cl } } .change
            ∧ (∀ e', hasBit ch e' = (hasBit (s.port q).notify.changed e' || e' == e))
            ∧ (∀ l, (s.port q).notify.clearList = .entries l →
                ∃ l', cl = .entries l' ∧ ∀ e', hasBit l' e' = (hasBit l e' && e' != e))
            ∧ ((∀ l, (s.port q).notify.clearList ≠ .entries l) → cl = (s.port q).notify.clearList))
      ∧ { t with ports := s.ports } = s

/-- NOTIFY line n is asserted exactly while some port routed to it has a flag set, or COMPLETION true, that its mask
enables (R148, R155). -/
def Obligations.NotifyLineFollowsFlags : Prop :=
  ∀ (s : State) (n : Line), s.notifyAsserted n = true ↔
    ∃ p, (s.port p).notify.route = n ∧ ∃ i : Fin 10, hasBit (s.port p).notify.mask i = true
      ∧ ((i = 0 ∧ (s.port p).completions ≠ []) ∨ (i ≠ 0 ∧ hasBit (s.port p).notify.flags i = true))

/-! ### The directory's commands -/

/-- RENEW in RUN: the owner's lease remaining becomes the lease value times 4 ms, DONE; in every other case NOT_OWNER with
no effect (R78). -/
def Obligations.RenewReloadsLease : Prop :=
  ∀ (s : State) (p : Port) (bits : List Bool) (f : Frame) (n : Byte) (more : List Byte),
    s.frameJudged p bits f .renew (n :: more) → s.phase = .run →
    (∀ (e : EntryNo) x, n.toNat = e.val → s.entry e = some x → x.owner = some p →
      exec (.renew p bits) s = .next ((s.setPort p ((s.port p).afterFrame .done)).setEntry e
        (some { x with leaseRemaining := x.leaseValue * 4 })))
    ∧ ((32 ≤ n.toNat ∨ ∃ e : EntryNo, n.toNat = e.val ∧ ∀ x, s.entry e = some x → x.owner ≠ some p) →
      exec (.renew p bits) s = .next (s.setPort p ((s.port p).afterFrame .notOwner)))

/-- DIR_WRITE in CONFIG from a level-0 port (R19): the record of a valid entry fills the named slot, with count 0, no
owner, no lease, reason INITIAL and an empty watch set, DONE, unless another slot holds its address, DIR_CONFLICT; too few
bytes, a bad window count, a bad marker or a number above 31 are refused in the order of R19, and then, with MALFORMED, a
record that fails a condition of R8. -/
def Obligations.DirWriteFillsSlot : Prop :=
  ∀ (s : State) (p : Port) (bits : List Bool) (f : Frame) (args : List Byte), s.frameJudged p bits f .dirWrite args →
    s.phase = .config → (s.port p).level = 0 →
    (∀ (x : Entry) (e : EntryNo) (extra : List Byte), x.valid = true →
      args = x.recordBytes (BitVec.ofNat 8 e.val) ++ extra →
      ((∀ e' x', s.entry e' = some x' → x'.address = x.address → e' = e) →
        exec (.dirWrite p bits) s = .next ((s.setPort p ((s.port p).afterFrame .done)).setEntry e
          (some { x with nackCount := 0, owner := none, leaseValue := 0, leaseRemaining := 0,
                         releaseReason := .initial, watchSet := 0 })))
      ∧ ((∃ e' x', s.entry e' = some x' ∧ x'.address = x.address ∧ e' ≠ e) →
        exec (.dirWrite p bits) s = .next (s.setPort p ((s.port p).afterFrame .dirConflict))))
    ∧ (args.length < 6 → exec (.dirWrite p bits) s = .next (s.setPort p ((s.port p).afterFrame .shortFrame)))
    ∧ (6 ≤ args.length → ((args.getD 5 0).toNat = 0 ∨ 4 < (args.getD 5 0).toNat) →
        exec (.dirWrite p bits) s = .next (s.setPort p ((s.port p).afterFrame .malformed)))
    ∧ (6 ≤ args.length → 1 ≤ (args.getD 5 0).toNat → (args.getD 5 0).toNat ≤ 4 →
        (args.length < 6 + 5 * (args.getD 5 0).toNat →
          exec (.dirWrite p bits) s = .next (s.setPort p ((s.port p).afterFrame .shortFrame)))
        ∧ (6 + 5 * (args.getD 5 0).toNat ≤ args.length → (args.getD 0 0 ≠ 0xE0 ∨ 32 ≤ (args.getD 1 0).toNat) →
          exec (.dirWrite p bits) s = .next (s.setPort p ((s.port p).afterFrame .malformed)))
        ∧ (6 + 5 * (args.getD 5 0).toNat ≤ args.length → ∀ first last : Nat → Nat,
          (∀ k, first k = 256 * (args.getD (6 + 5 * k) 0).toNat + (args.getD (7 + 5 * k) 0).toNat) →
          (∀ k, last k = 256 * (args.getD (8 + 5 * k) 0).toNat + (args.getD (9 + 5 * k) 0).toNat) →
          ((args.getD 2 0).toNat < 0x08 ∨ 0x77 < (args.getD 2 0).toNat ∨ 2 < (args.getD 3 0).toNat
            ∨ 3 < (args.getD 4 0).toNat ∨ (args.getD 3 0 = 0x00 ∧ (args.getD 5 0).toNat ≠ 1)
            ∨ ∃ k < (args.getD 5 0).toNat, last k < first k ∨ (args.getD 3 0 = 0x00 ∧ last k ≠ 0)
                ∨ (args.getD 3 0 = 0x01 ∧ 255 < last k) ∨ (k + 1 < (args.getD 5 0).toNat ∧ first (k + 1) ≤ last k)) →
          exec (.dirWrite p bits) s = .next (s.setPort p ((s.port p).afterFrame .malformed))))

/-- DIR_CLEAR and SEAL from an ACTIVE port in CONFIG or RUN: WRONG_PHASE in RUN, then NOT_PERMITTED above level 0.
DIR_CLEAR then gives NO_ENTRY for a number above 31, and otherwise makes the slot empty, DONE (R20); SEAL makes the
phase RUN, DONE (R169). Nothing else changes. -/
def Obligations.DirClearAndSeal : Prop :=
  ∀ (s : State) (p : Port) (bits : List Bool) (f : Frame),
    (∀ (n : Byte) (more : List Byte), s.frameJudged p bits f .dirClear (n :: more) →
      (s.phase = .run → exec (.dirClear p bits) s = .next (s.setPort p ((s.port p).afterFrame .wrongPhase)))
      ∧ (s.phase = .config → (s.port p).level ≠ 0 →
          exec (.dirClear p bits) s = .next (s.setPort p ((s.port p).afterFrame .notPermitted)))
      ∧ (s.phase = .config → (s.port p).level = 0 →
          (32 ≤ n.toNat → exec (.dirClear p bits) s = .next (s.setPort p ((s.port p).afterFrame .noEntry)))
          ∧ ∀ e : EntryNo, n.toNat = e.val →
            exec (.dirClear p bits) s = .next ((s.setPort p ((s.port p).afterFrame .done)).setEntry e none)))
    ∧ ∀ args : List Byte, s.frameJudged p bits f .seal args →
      (s.phase = .run → exec (.seal p bits) s = .next (s.setPort p ((s.port p).afterFrame .wrongPhase)))
      ∧ (s.phase = .config → (s.port p).level ≠ 0 →
          exec (.seal p bits) s = .next (s.setPort p ((s.port p).afterFrame .notPermitted)))
      ∧ (s.phase = .config → (s.port p).level = 0 →
          exec (.seal p bits) s = .next { s.setPort p ((s.port p).afterFrame .done) with phase := .run })

/-! ### HOLD and RELEASE -/

/-- HOLD that holds no port (R136): BAD_PORT for a target of 4 to 255 or an OFFLINE port, then NOT_PERMITTED for another
port's target from above level 0, then DONE with nothing changed for a target already HELD. -/
def Obligations.HoldJudgedInOrder : Prop :=
  ∀ (s : State) (p : Port) (bits : List Bool) (f : Frame) (n : Byte) (more : List Byte),
    s.frameJudged p bits f .hold (n :: more) →
    (4 ≤ n.toNat → exec (.hold p bits) s = .next (s.setPort p ((s.port p).afterFrame .badPort)))
    ∧ ∀ target : Port, n.toNat = target.val →
      ((s.port target).state = .offline →
        exec (.hold p bits) s = .next (s.setPort p ((s.port p).afterFrame .badPort)))
      ∧ ((s.port target).state ≠ .offline → target ≠ p → (s.port p).level ≠ 0 →
        exec (.hold p bits) s = .next (s.setPort p ((s.port p).afterFrame .notPermitted)))
      ∧ ((s.port target).state = .held → (s.port p).level = 0 →
        exec (.hold p bits) s = .next (s.setPort p ((s.port p).afterFrame .done)))

/-- A HOLD carried out on an ACTIVE target, in one act (R137, R48, R82, R101, R156): HELD with its origin, cause HOLD and
result NONE; queues, credits, timer, mark, flags, mask, Changed Set and clear list cleared; level, route and clear mode
kept; a frame in progress goes on, with the mark that the port was held after the end of byte 0 (R45); its polls gone, its
transaction marked to be discarded. Each lock it owned ends with RESET: unless the entry is ABSENT it passes, with its own
lease, to the longest deferred LOCK head of a port with a free credit, ties to the lower port, which leaves its queue and
completes OK with RESET; without one the entry is free (R76, R82). No watch set holds the target; PEER is raised in every
other ACTIVE port; static fields, health and other ports' locks are kept. Heads and slots are then judged, and the
hand-overs' records join. -/
def Obligations.HoldClearsTarget : Prop :=
  ∀ (s : State) (p : Port) (bits : List Bool) (f : Frame) (n : Byte) (more : List Byte) (target : Port)
    (u : Port → PortUnit) (given : EntryNo → Port → Request → List Request → Prop),
    s.frameJudged p bits f .hold (n :: more) → n.toNat = target.val → (s.port target).state = .active →
    (target = p ∨ (s.port p).level = 0) →
    (∀ q, u q = if q = p then (s.port p).afterFrame .done else s.port q) →
    (∀ e q r rest, given e q r rest ↔
      ∃ x, s.entry e = some x ∧ x.owner = some target ∧ x.nackCount ≠ 3 ∧ s.heir e q r rest) →
    ∃ (t s' : State) (recs : List (Port × Completion)), exec (.hold p bits) s = .next t ∧ t = s'.settle recs
      ∧ (t.port target).state = .held ∧ (t.port target).origin = some (if target = p then .self else .port p)
      ∧ (t.port target).resetCause = .hold ∧ (t.port target).lastResult = .noCode
      ∧ (t.port target).requests = [] ∧ (t.port target).completions = [] ∧ (t.port target).credits = 0
      ∧ (t.port target).deferral = none ∧ (t.port target).lockedMark = false
      ∧ (t.port target).notify = { (s.port target).notify with flags := 0, mask := 0, changed := 0, clearList := .absent }
      ∧ (t.port target).level = (s.port target).level
      ∧ (t.port target).frame = (match (u target).frame with
          | .opened g => .opened { g with heldSince := g.heldSince || g.lastResult.isSome }
          | g => g)
      ∧ (∀ q, q ≠ target → (∀ e r rest, ¬ given e q r rest) → s'.port q = (u q).raise .peer ∧ recordsFor recs q = [])
      ∧ (∀ e q r rest, given e q r rest → q ≠ target ∧ s'.port q = ((u q).headTaken rest).raise .peer
          ∧ recordsFor recs q = [recordWithoutBus r r.entry .ok (some .reset)])
      ∧ (∀ k, s'.poll k = (s.poll k).filter fun q => q.port ≠ target)
      ∧ (∀ k q, t.poll k = some q → q.port ≠ target)
      ∧ t.scheduler.current = (s.scheduler.current.map fun c => if c.port = target then { c with discard := true } else c)
      ∧ (∀ e x, s.entry e = some x → ∃ y, t.entry e = some y
          ∧ y.address = x.address ∧ y.type = x.type ∧ y.lockLevel = x.lockLevel ∧ y.windows = x.windows
          ∧ y.nackCount = x.nackCount ∧ y.owner ≠ some target ∧ hasBit y.watchSet target = false
          ∧ (∀ q, hasBit y.watchSet q = (hasBit x.watchSet q && q != target))
          ∧ (x.owner = some target → y.releaseReason = .reset)
          ∧ (x.owner = some target → (∀ q r rest, ¬ given e q r rest) →
              y.owner = none ∧ y.leaseValue = x.leaseValue ∧ y.leaseRemaining = 0)
          ∧ (∀ q r rest, given e q r rest →
              y.owner = some q ∧ y.leaseValue = r.lease.toNat ∧ y.leaseRemaining = r.lease.toNat * 4)
          ∧ (x.owner ≠ some target → y.owner = x.owner ∧ y.leaseValue = x.leaseValue
              ∧ y.leaseRemaining = x.leaseRemaining ∧ y.releaseReason = x.releaseReason))
      ∧ (∀ e, s.entry e = none → t.entry e = none)
      ∧ (∀ q, q ≠ target → (t.port q).state = (s.port q).state ∧ (t.port q).level = (s.port q).level
          ∧ ((s.port q).state = .active → hasBit (t.port q).notify.flags Flag.peer.index = true))
      ∧ (target ≠ p → (t.port p).lastResult = .done)
      ∧ t.timeBase = s.timeBase ∧ t.phase = s.phase ∧ t.engine = s.engine ∧ t.loader = s.loader
      ∧ t.scheduler.turn = s.scheduler.turn

/-- RELEASE (R140, R141): BAD_PORT, then NOT_PERMITTED unless the sender is an ACTIVE level-0 port, an ACTIVE port naming
itself, or a port HELD by itself naming itself; an ACTIVE target gives DONE and nothing else; a HELD target becomes ACTIVE
with no origin and result NONE, and PEER is raised in every other ACTIVE port. -/
def Obligations.ReleaseFreesTarget : Prop :=
  ∀ (s : State) (p : Port) (bits : List Bool) (f : Frame) (n : Byte) (more : List Byte) (mayRelease : Port → Prop),
    s.frameEnds p bits f 0x51 (n :: more) → s.phase ≠ .loading →
    (∀ target, mayRelease target ↔ ((s.port p).state = .active ∧ ((s.port p).level = 0 ∨ target = p))
      ∨ (target = p ∧ (s.port p).state = .held ∧ (s.port p).origin = some .self)) →
    (4 ≤ n.toNat → exec (.release p bits) s = .next (s.setPort p ((s.port p).afterFrame .badPort)))
    ∧ ∀ target : Port, n.toNat = target.val →
      ((s.port target).state = .offline →
        exec (.release p bits) s = .next (s.setPort p ((s.port p).afterFrame .badPort)))
      ∧ ((s.port target).state ≠ .offline → ¬ mayRelease target →
        exec (.release p bits) s = .next (s.setPort p ((s.port p).afterFrame .notPermitted)))
      ∧ ((s.port target).state = .active → mayRelease target →
        exec (.release p bits) s = .next (s.setPort p ((s.port p).afterFrame .done)))
      ∧ ((s.port target).state = .held → mayRelease target →
        ∃ t, exec (.release p bits) s = .next t
          ∧ t.port target = { (if target = p then (s.port p).afterFrame .done else s.port target) with
              state := .active, origin := none, lastResult := .noCode }
          ∧ (∀ q, q ≠ target → t.port q = (if q = p then (s.port p).afterFrame .done else s.port q).raise .peer)
          ∧ { t with ports := s.ports } = s)

/-! ### Heads that need no bus -/

/-- What judging does in the act of a change (R50, R58, R90, R93, R94, R98): a head that a lock holds back starts its
timer at 0 or, with wait limit 0, is fixed as LOCKED. A DUE slot, and a BLOCKED one whose lock is gone, ends NO_DEVICE
on an ABSENT entry; else BUS_FAULT on a FAULTED bus; else, locked by another port, LOCKED with wait limit 0 or goes
BLOCKED; else is DUE. WAITING and RUNNING slots, and BLOCKED ones still locked against their port, stand. The records
of the polls that end, with those statuses, and the records given join their queues, each using a credit; nothing else
changes. -/
def Obligations.JudgingFollowsLocksAndHealth : Prop :=
  ∀ (s : State) (recs : List (Port × Completion)), ∃ (t : State) (ends : List (Port × Completion)),
    s.settle recs = t ∧ s.pollEnds = ends
    ∧ (∀ p, ∃ more credits, t.port p = { s.port p with
          completions := (s.port p).completions ++ more, credits := credits,
          deferral := (t.port p).deferral, lockedMark := (t.port p).lockedMark }
        ∧ more.Perm (recordsFor (recs ++ ends) p) ∧ credits = (s.port p).credits - more.length)
    ∧ (∀ p, s.headJudged p (s.port p).requests.head? (s.port p).deferral (s.port p).lockedMark (t.port p).deferral
        (t.port p).lockedMark)
    ∧ (∀ k, s.poll k = none → t.poll k = none)
    ∧ (∀ k q, s.poll k = some q →
        (q.state = .waiting ∨ q.state = .running → t.poll k = some q)
        ∧ (q.state = .blocked → s.lockedAgainst q.entry q.port → t.poll k = some q)
        ∧ (q.state = .due ∨ (q.state = .blocked ∧ ¬ s.lockedAgainst q.entry q.port) →
          (s.entryAbsent q.entry → t.poll k = none ∧ (q.port, recordOfPoll q .noDevice) ∈ ends)
          ∧ (¬ s.entryAbsent q.entry → s.engine.busState = .faulted →
              t.poll k = none ∧ (q.port, recordOfPoll q .busFault) ∈ ends)
          ∧ (¬ s.entryAbsent q.entry → s.engine.busState ≠ .faulted → s.lockedAgainst q.entry q.port →
              (q.waitLimit = 0 → t.poll k = none ∧ (q.port, recordOfPoll q .locked) ∈ ends)
              ∧ (q.waitLimit ≠ 0 →
                  t.poll k = some { q with state := .blocked, blockTimer := some (q.blockTimer.getD 0) }))
          ∧ (¬ s.entryAbsent q.entry → s.engine.busState ≠ .faulted → ¬ s.lockedAgainst q.entry q.port →
              t.poll k = some { q with state := .due })))
    ∧ (∀ z ∈ ends, ∃ k q st, s.poll k = some q ∧ t.poll k = none ∧ z = (q.port, recordOfPoll q st))
    ∧ ends.length = ((List.finRange 6).countP fun k => (s.poll k).isSome && (t.poll k).isNone)
    ∧ t.directory = s.directory ∧ t.engine = s.engine ∧ t.scheduler.current = s.scheduler.current
    ∧ t.scheduler.turn = s.scheduler.turn ∧ t.phase = s.phase ∧ t.timeBase = s.timeBase ∧ t.loader = s.loader
    ∧ t.resetn = s.resetn ∧ t.pending = s.pending

/-- FENCE_HEAD: a FENCE head that is ready and whose port has no parked polls is executed at once with status OK, entry 0,
count 0 and no data, whatever the bus state (R54). While its port has a parked poll a FENCE head waits: FENCE_HEAD then
leaves the state as it is (R50). -/
def Obligations.FenceCompletesWithoutPolls : Prop :=
  ∀ (s : State) (p : Port) (r : Request) (rest : List Request), r.kind = .fence →
    (s.headReady p r rest → (∀ k q, s.poll k = some q → q.port ≠ p) →
      exec (.fenceHead p) s = .next ((s.setPort p ((s.port p).headTaken rest)).settle
        [(p, recordWithoutBus r 0 .ok none)]))
    ∧ ((s.port p).requests = r :: rest → (∃ k q, s.poll k = some q ∧ q.port = p) → exec (.fenceHead p) s = .next s)

/-- POLL_PARKING: a ready POLL head of a port with fewer than 3 parked polls goes to the lowest free slot, DUE, with its
full count, the effective index, no last byte and the present time, holding its credit, and is judged in the same act;
whatever the bus state (R53, R89). With 3 parked polls, or with no slot free, the head waits: POLL_PARKING then leaves the
state as it is (R50, R53). -/
def Obligations.PollParksInLowestSlot : Prop :=
  (∀ (s : State) (p : Port), s.parked p = (List.finRange 6).countP fun k => (s.poll k).any fun q => q.port = p)
  ∧ (∀ (s : State) (p : Port) (r : Request) (rest : List Request), (s.port p).requests = r :: rest → r.kind = .poll →
    (3 ≤ s.parked p ∨ ∀ k, s.poll k ≠ none) → exec (.pollParking p) s = .next s)
  ∧ ∀ (s : State) (p : Port) (r : Request) (rest : List Request) (e : EntryNo) (x : Entry) (k : SlotNo),
    s.headReady p r rest → r.kind = .poll → s.parked p < 3 → entryOfByte r.entry = some e → s.entry e = some x →
    s.poll k = none → (∀ j : SlotNo, j.val < k.val → s.poll j ≠ none) →
    exec (.pollParking p) s = .next (((s.setPort p ((s.port p).headTaken rest)).setPoll k (some {
      port := p, tag := r.tag, entry := e, index := effectiveIndex x.type r.index, mask := r.mask,
      matchByte := r.matchByte, condition := if r.condition = 0 then .untilEqual else .untilDifferent,
      count := r.count.toNat, remaining := r.count.toNat, interval := r.interval.toNat, waitLimit := r.waitLimit,
      lastByte := none, nextDue := s.timeBase.toNat, blockTimer := none, cancelPending := false, state := .due })).settle [])

/-- LOCK_HEAD (R72): a free entry is taken with the LOCK's lease, the record carrying the entry's release reason; the
owner's LOCK re-leases, ALREADY_OWNED; on another port's entry nothing is taken and the head is DEFERRED with its timer at
0, or fixed as LOCKED with wait limit 0; the timer of one already DEFERRED stands (R58). -/
def Obligations.LockTakesOrDefers : Prop :=
  ∀ (s : State) (p : Port) (r : Request) (rest : List Request) (e : EntryNo) (x : Entry),
    (s.port p).requests = r :: rest → r.kind = .lock → entryOfByte r.entry = some e → s.entry e = some x →
    (s.headReady p r rest → x.nackCount ≠ 3 → x.owner = none ∨ x.owner = some p →
      exec (.lockHead p) s = .next (((s.setPort p ((s.port p).headTaken rest)).setEntry e
          (some { x with owner := some p, leaseValue := r.lease.toNat, leaseRemaining := r.lease.toNat * 4 })).settle
        [(p, recordWithoutBus r r.entry .ok (some (if x.owner = some p then .alreadyOwned else
          match x.releaseReason with
          | .initial => .initial | .normal => .normal | .expired => .expired | .broken => .broken | .reset => .reset)))]))
    ∧ (∀ q, x.owner = some q → q ≠ p → (s.port p).lockedMark = false → (s.port p).deferral = none →
      exec (.lockHead p) s = .next (s.setPort p (if r.waitLimit = 0 then { s.port p with lockedMark := true }
        else { s.port p with deferral := some 0 })))
    ∧ ∀ q, x.owner = some q → q ≠ p → ∃ (d : Option Nat) (m : Bool),
      exec (.lockHead p) s = .next (s.setPort p { s.port p with deferral := d, lockedMark := m })
      ∧ s.headJudged p (some r) (s.port p).deferral (s.port p).lockedMark d m

/-- UNLOCK_HEAD (R60, R73, R76): the owner's lock ends with reason NORMAL. With no LOCK head DEFERRED on the entry
whose port has a free credit the entry becomes free, its lease value kept; otherwise the longest deferred one, ties to
the lower port, is given the lock with its own lease, leaves its queue and completes OK with NORMAL. An UNLOCK by a port
that does not own the lock ends NOT_HELD and leaves it. -/
def Obligations.UnlockReleasesOrHandsOver : Prop :=
  ∀ (s : State) (p : Port) (r : Request) (rest : List Request) (e : EntryNo) (x : Entry),
    s.headReady p r rest → r.kind = .unlock → entryOfByte r.entry = some e → s.entry e = some x → x.nackCount ≠ 3 →
    (x.owner ≠ some p →
      exec (.unlockHead p) s = .next ((s.setPort p ((s.port p).headTaken rest)).settle
        [(p, recordWithoutBus r r.entry .notHeld none)]))
    ∧ (x.owner = some p → (∀ q rq restq d, ¬ s.waitsFor e q rq restq d) →
      exec (.unlockHead p) s = .next (((s.setPort p ((s.port p).headTaken rest)).setEntry e
          (some { x with owner := none, leaseRemaining := 0, releaseReason := .normal })).settle
        [(p, recordWithoutBus r r.entry .ok none)]))
    ∧ (x.owner = some p → ∀ (q : Port) (rq : Request) (restq : List Request), s.heir e q rq restq →
      exec (.unlockHead p) s = .next ((((s.setPort p ((s.port p).headTaken rest)).setPort q ((s.port q).headTaken restq)).setEntry
          e (some { x with owner := some q, leaseValue := rq.lease.toNat, leaseRemaining := rq.lease.toNat * 4,
                           releaseReason := .normal })).settle
        [(p, recordWithoutBus r r.entry .ok none), (q, recordWithoutBus rq rq.entry .ok (some .normal))]))

/-- BREAK_HEAD (R74, R75): on a free entry it ends OK and leaves it free; by the owner OK, ALREADY_OWNED, the lease left;
against an owner whose level number is at most the breaker's OUTRANKED; against an outranked owner the lock passes to the
breaker with the BREAK's lease and reason BROKEN, LOCK_BROKEN is raised in the old owner, and the old owner's transaction
on the entry, owned at grant, is marked lock-lost. -/
def Obligations.BreakPassesOutrankedLock : Prop :=
  ∀ (s : State) (p : Port) (r : Request) (rest : List Request) (e : EntryNo) (x : Entry),
    s.headReady p r rest → r.kind = .brk → entryOfByte r.entry = some e → s.entry e = some x → x.nackCount ≠ 3 →
    (x.owner = none →
      exec (.breakHead p) s = .next ((s.setPort p ((s.port p).headTaken rest)).settle
        [(p, recordWithoutBus r r.entry .ok (some (match x.releaseReason with
          | .initial => .initial | .normal => .normal | .expired => .expired | .broken => .broken | .reset => .reset)))]))
    ∧ (x.owner = some p →
      exec (.breakHead p) s = .next ((s.setPort p ((s.port p).headTaken rest)).settle
        [(p, recordWithoutBus r r.entry .ok (some .alreadyOwned))]))
    ∧ ∀ q, x.owner = some q → q ≠ p →
      ((s.port q).level ≤ (s.port p).level →
        exec (.breakHead p) s = .next ((s.setPort p ((s.port p).headTaken rest)).settle
          [(p, recordWithoutBus r r.entry .outranked none)]))
      ∧ ((s.port p).level < (s.port q).level →
        exec (.breakHead p) s = .next
          (((((s.setPort p ((s.port p).headTaken rest)).setPort q ((s.port q).raise .lockBroken)).setEntry e
              (some { x with owner := some p, leaseValue := r.lease.toNat, leaseRemaining := r.lease.toNat * 4,
                             releaseReason := .broken })).setCurrent
              (s.scheduler.current.map fun c =>
                if c.slot = none ∧ c.port = q ∧ c.entry = e ∧ c.ownedAtGrant = true then { c with lockLost := true } else c)).settle
            [(p, recordWithoutBus r r.entry .ok (some .broken))]))

/-- END_WITHOUT_BUS (R51, R52, R58): with a free credit, a head fixed as LOCKED ends LOCKED; one that no lock defers
ends NO_DEVICE on an ABSENT entry (all kinds that are asked), else BUS_FAULT on a FAULTED bus (bus kinds; a PROBE
whatever the health); the entry, the turn pointer and the bus are left as they are. A DEFERRED head, and one that
neither its entry nor the bus nor its mark ends, is left. The head states (R32, R38): DEFERRED while a lock holds the
head back and it is not fixed as LOCKED, else QUEUED with a free credit and CREDIT_WAIT without. A head without a free
credit, and none outside RUN or of a port that is not ACTIVE, is not taken by any of the six commands that take heads
(R50); LOCK_HEAD judges a LOCK head (R58) and leaves another. -/
def Obligations.HeadsEndWithoutBus : Prop :=
  (∀ (s : State) (p : Port), ((s.port p).requests = [] → s.headState p = none)
    ∧ ∀ r rest, (s.port p).requests = r :: rest →
      (s.heldBack p r ∧ (s.port p).lockedMark = false → s.headState p = some .deferred)
      ∧ (¬ s.heldBack p r ∨ (s.port p).lockedMark = true → s.headState p =
          some (if (s.port p).completions.length + (s.port p).credits < 8 then .queued else .creditWait)))
  ∧ (∀ (s : State) (p : Port), s.phase ≠ .run ∨ (s.port p).state ≠ .active ∨ (s.port p).requests = []
      ∨ 8 ≤ (s.port p).completions.length + (s.port p).credits →
    (∀ i ∈ [Instr.fenceHead p, .pollParking p, .unlockHead p, .breakHead p, .endWithoutBus p], exec i s = .next s)
    ∧ ∃ (d : Option Nat) (m : Bool),
      exec (.lockHead p) s = .next (s.setPort p { s.port p with deferral := d, lockedMark := m })
      ∧ ((∃ r ∈ (s.port p).requests.head?, r.kind = .lock) →
          s.headJudged p (s.port p).requests.head? (s.port p).deferral (s.port p).lockedMark d m)
      ∧ ((∀ r ∈ (s.port p).requests.head?, r.kind ≠ .lock) → d = (s.port p).deferral ∧ m = (s.port p).lockedMark))
  ∧ ∀ (s : State) (p : Port) (r : Request) (rest : List Request) (e : EntryNo) (x : Entry),
    s.phase = .run → (s.port p).state = .active → (s.port p).requests = r :: rest →
    (s.port p).completions.length + (s.port p).credits < 8 → r.kind ≠ .fence →
    entryOfByte r.entry = some e → s.entry e = some x →
    ((s.port p).lockedMark = false →
      s.heldBack p r ∨ ((x.nackCount ≠ 3 ∨ r.kind = .poll ∨ r.kind = .probe)
        ∧ (s.engine.busState ≠ .faulted ∨ r.kind ∉ ([.read, .write, .send, .recv, .probe] : List Kind))) →
      exec (.endWithoutBus p) s = .next s)
    ∧ ((s.port p).lockedMark = true →
      exec (.endWithoutBus p) s = .next ((s.setPort p ((s.port p).headTaken rest)).settle
        [(p, recordWithoutBus r r.entry .locked none)]))
    ∧ ((s.port p).lockedMark = false → ¬ s.heldBack p r →
      (x.nackCount = 3 → r.kind ∈ ([.read, .write, .send, .recv, .lock, .unlock, .brk] : List Kind) →
        exec (.endWithoutBus p) s = .next ((s.setPort p ((s.port p).headTaken rest)).settle
          [(p, recordWithoutBus r r.entry .noDevice none)]))
      ∧ (s.engine.busState = .faulted →
        (r.kind = .probe ∨ (x.nackCount ≠ 3 ∧ r.kind ∈ ([.read, .write, .send, .recv] : List Kind))) →
        exec (.endWithoutBus p) s = .next ((s.setPort p ((s.port p).headTaken rest)).settle
          [(p, recordWithoutBus r r.entry .busFault none)])))

/-! ### Grants -/

/-- GRANT at a port position (R56, R62, R79): with the engine READY, a ready bus head that no lock defers, on an entry
that is not ABSENT unless it is a PROBE, and no candidate at the positions before the port's in turn order: the head is
taken, the record of the current transaction made with owned-at-grant as the lock stands, the owner's lease reloaded,
the pointer
moved to the port, and the engine BUSY with the request's transaction (the entry's bus address, and by kind the shape, the
index bytes, the length and the data), then reading the wires. -/
def Obligations.GrantStartsPortTransaction : Prop :=
  ∀ (s : State) (p : Port) (r : Request) (rest : List Request) (e : EntryNo) (x : Entry) (bus : BusRead),
    s.headReady p r rest → ¬ s.heldBack p r →
    r.kind ∈ ([.read, .write, .send, .recv, .probe] : List Kind) → entryOfByte r.entry = some e →
    s.entry e = some x → (x.nackCount ≠ 3 ∨ r.kind = .probe) → s.engine.busState = .ready →
    (∀ pos ∈ (turnOrder s.scheduler.turn).takeWhile (fun q => q ≠ .port p), s.hasCandidate pos = false) →
    ∃ eng : Engine,
      exec (.grant bus) s = .next ((((((s.setPort p ((s.port p).headTaken rest)).setEntry e
          (some (if x.owner = some p then { x with leaseRemaining := x.leaseValue * 4 } else x))).setCurrent
          (some { port := p, slot := none, tag := r.tag, kind := r.kind, entry := e,
                  ownedAtGrant := decide (x.owner = some p), lockLost := false, discard := false })).setTurn (.port p)).settle
          []).setEngine eng)
      ∧ eng = (((s.engine.start (.fresh .scheduler
          (match r.kind with | .read => .read | .write => .write | .send => .send | .recv => .recv | _ => .probe)
          x.address (if r.kind = .read ∨ r.kind = .write then indexOnWire x.type r.index else [])
          (match r.kind with | .read | .write => r.length.toNat | .send | .recv => 1 | _ => 0)
          (if r.kind = .write ∨ r.kind = .send then r.data else []))).reads bus.samples).1).stretchAfter bus.mckLow
      ∧ eng.busState = .busy

/-- GRANT at position P (R56, R95): the same for the DUE slot with the earliest next-due time, ties to the lower slot: it
goes to RUNNING, its block timer is discarded, its owner's lease reloaded, the pointer rests on P, no credit is reserved,
and the engine is BUSY with a one-byte read at the slot's index. -/
def Obligations.GrantStartsPollIteration : Prop :=
  ∀ (s : State) (k : SlotNo) (q : Poll) (x : Entry) (bus : BusRead),
    s.phase = .run → s.engine.busState = .ready → s.poll k = some q → q.state = .due → s.entry q.entry = some x →
    x.nackCount ≠ 3 → (x.owner = none ∨ x.owner = some q.port) →
    (∀ j q', s.slotIsCandidate j q' → q.nextDue < q'.nextDue ∨ (q.nextDue = q'.nextDue ∧ k ≤ j)) →
    (∀ pos ∈ (turnOrder s.scheduler.turn).takeWhile (fun t => t ≠ .poll), s.hasCandidate pos = false) →
    ∃ eng : Engine,
      exec (.grant bus) s = .next ((((((s.setPoll k (some { q with state := .running, blockTimer := none })).setEntry q.entry
          (some (if x.owner = some q.port then { x with leaseRemaining := x.leaseValue * 4 } else x))).setCurrent
          (some { port := q.port, slot := some k, tag := q.tag, kind := .poll, entry := q.entry, ownedAtGrant := false,
                  lockLost := false, discard := false })).setTurn .poll).settle []).setEngine eng)
      ∧ eng = (((s.engine.start (.fresh .scheduler .read x.address (indexOnWire x.type q.index) 1 [])).reads
          bus.samples).1).stretchAfter bus.mckLow
      ∧ eng.busState = .busy

/-- The candidates (R55): at a port's position its ready head of a bus kind, on an entry that no other port has locked
and that is not ABSENT unless it is a PROBE; at P a DUE slot whose entry is neither ABSENT nor locked by another port.
The search (R56): the cyclic order U0, U1, U2, U3, P from the position after the pointer; in RUN, with the engine
READY, the first position with a candidate wins, and else GRANT grants nothing and changes nothing. The arbiter is fair
(R56, R57): GRANT moves the turn pointer to the position that won, which had a candidate, and the engine is BUSY; how
many positions lie between the pointer and a candidate falls at every grant of another position, so a candidate that
stays one is granted within five grants. -/
def Obligations.ArbiterIsFair : Prop :=
  (∀ (s : State), (∀ p, s.hasCandidate (.port p) = true ↔ s.headIsCandidate p)
    ∧ (s.hasCandidate .poll = true ↔ ∃ k q, s.slotIsCandidate k q)
    ∧ (∀ won, s.grantChoice = some won ↔ s.phase = .run ∧ s.engine.busState = .ready ∧ s.hasCandidate won = true
        ∧ ∀ pos ∈ (turnOrder s.scheduler.turn).takeWhile (fun q => q ≠ won), s.hasCandidate pos = false)
    ∧ (s.phase ≠ .run ∨ s.engine.busState ≠ .ready ∨ (∀ pos, s.hasCandidate pos = false) →
        ∀ bus, exec (.grant bus) s = .next s))
  ∧ (∀ cycle : Nat → Position,
    (∀ n, cycle n = [Position.port 0, .port 1, .port 2, .port 3, .poll].getD (n % 5) .poll) →
    ∀ n, turnOrder (cycle n) = [cycle (n + 1), cycle (n + 2), cycle (n + 3), cycle (n + 4), cycle (n + 5)])
  ∧ ∀ (s : State) (won : Position), s.grantChoice = some won →
    s.hasCandidate won = true
    ∧ (∀ bus, ∃ t, exec (.grant bus) s = .next t ∧ t.scheduler.turn = won ∧ t.engine.busState = .busy)
    ∧ ∀ pos, s.hasCandidate pos = true → won ≠ pos →
      (turnOrder won).findIdx (fun q => q = pos) < (turnOrder s.scheduler.turn).findIdx (fun q => q = pos)
      ∧ (turnOrder s.scheduler.turn).findIdx (fun q => q = pos) < 5

/-! ### The management bus -/

/-- The clock pulses of the shapes (R108): 27 + 9n for an INDEXED8 read of n bytes and 36 + 9n for INDEXED16, 18 + 9n
and 27 + 9n for a write, 18 for SEND and RECV, 9 for PROBE. The pulses of a recovery (R117): a first reading of MDA
gives none, and on high goes to the STOP; a pulse read high goes to the STOP, the ninth read low fails the recovery; a
STOP that reads high ends it well, one that reads low goes back to the pulses below 9 and else fails. So it ends well
after as many pulses as read low and one more, fails after nine, and never gives more. Its lines (R104, R105): both
released at the first reading, a clock pulse with MDA released, and the STOP of R105, MCK being pulled low for it first
(the model's reading where no pulse came before, log 22). -/
def Obligations.ClockPulsesOfShapes : Prop :=
  (∀ (a : BitVec 7) (i : BitVec 16) (n : Nat) (data : List Byte),
    clockPulses (wireSlots .read a (indexBytesOf .indexed8 i) n []) = 27 + 9 * n
    ∧ clockPulses (wireSlots .read a (indexBytesOf .indexed16 i) n []) = 36 + 9 * n
    ∧ clockPulses (wireSlots .write a (indexBytesOf .indexed8 i) data.length data) = 18 + 9 * data.length
    ∧ clockPulses (wireSlots .write a (indexBytesOf .indexed16 i) data.length data) = 27 + 9 * data.length
    ∧ (∀ b, clockPulses (wireSlots .send a [] 1 [b]) = 18)
    ∧ clockPulses (wireSlots .recv a [] 1 []) = 18 ∧ clockPulses (wireSlots .probe a [] 0 []) = 9)
  ∧ (∀ (e : Engine) (r : Recovery), e.recovery = some r → r.outcome = none →
    (r.stage = .settling → e.sample true = { e with recovery := some { r with stage := .stopping } }
      ∧ e.sample false = { e with recovery := some { r with stage := .pulsing } })
    ∧ (r.stage = .pulsing →
      e.sample true = { e with recovery := some { r with pulses := r.pulses + 1, stage := .stopping } }
      ∧ (r.pulses + 1 < 9 → e.sample false = { e with recovery := some { r with pulses := r.pulses + 1 } })
      ∧ (9 ≤ r.pulses + 1 →
          e.sample false = { e with recovery := some { r with pulses := r.pulses + 1, outcome := some false } }))
    ∧ (r.stage = .stopping →
      e.sample true = { e with recovery := some { r with outcome := some true } }
      ∧ (r.pulses < 9 → e.sample false = { e with recovery := some { r with stage := .pulsing } })
      ∧ (9 ≤ r.pulses → e.sample false = { e with recovery := some { r with outcome := some false } }))
    ∧ (r.stage = .settling → ∀ m, e.mdaAt m = true ∧ e.mckAt m = true) ∧ (r.stage = .pulsing → e.pulses true)
    ∧ (r.stage = .stopping → e.stops))
  ∧ ∀ (e : Engine) (c : RecoveryCause),
    e.recovery = some { cause := c, pulses := 0, stage := .settling, outcome := none } →
    (e.reads [true, true]).1.recovery = some { cause := c, pulses := 0, stage := .stopping, outcome := some true }
    ∧ (∀ n ≤ 8, (e.reads ([false] ++ List.replicate n false ++ [true, true])).1.recovery
        = some { cause := c, pulses := n + 1, stage := .stopping, outcome := some true })
    ∧ (e.reads ([false] ++ List.replicate 9 false)).1.recovery
      = some { cause := c, pulses := 9, stage := .pulsing, outcome := some false }
    ∧ ∀ samples, ((e.reads samples).1.recovery.all fun r => r.pulses ≤ 9) = true

/-- On the wires (R106, R109, R110): when the device acknowledges every byte and puts the bytes of `ds` on MDA, most
significant bit first, a read hands back exactly `ds` with status OK, and a RECV its byte; when it acknowledges every
byte, a write ends OK with every data byte counted, a SEND with 1 and a PROBE with 0. A refused address byte, of either
direction, ends NACK_ADDR with count 0; a refused index byte NACK_DATA with count 0; a refused data byte NACK_DATA with
the number acknowledged before it. Past the START a low reading is a stuck line exactly where the engine sends a 1 bit,
at a repeated START and at a STOP's release, and reports the progress reached without data (R111, R114). Before the
START a low reading blocks it and begins a recovery within the transaction (R115). The lines (R104 to R106): a bit is a
clock pulse, MCK low, then released for the sample and the rest of the high half, then low, with MDA at one level; a START
has both lines released until MDA is read high, then pulls MDA low and, at its end, MCK; a repeated START does so with MCK
released from low; a STOP releases MCK from low with MDA low, releases MDA once MCK is high, and leaves both released. An
engine with no work under way has both lines released (R103).
-/
def Obligations.WireCarriesBytes : Prop :=
  (∀ (e : Engine) (rq : Requester) (a : BitVec 7) (idx ds : List Byte),
    (ds ≠ [] → e.endsWith (.fresh rq .read a idx ds.length [])
      ([true] ++ ackedByte (addressByte a false) ++ idx.flatMap ackedByte ++ [true] ++ ackedByte (addressByte a true)
        ++ ds.flatMap ackedByte ++ [true]) .ok ds.length ds)
    ∧ e.endsWith (.fresh rq .write a idx ds.length ds)
      ([true] ++ ackedByte (addressByte a false) ++ idx.flatMap ackedByte ++ ds.flatMap ackedByte ++ [true]) .ok ds.length []
    ∧ (∀ b, e.endsWith (.fresh rq .send a [] 1 [b])
        ([true] ++ ackedByte (addressByte a false) ++ ackedByte b ++ [true]) .ok 1 [])
    ∧ (∀ b, e.endsWith (.fresh rq .recv a [] 1 [])
        ([true] ++ ackedByte (addressByte a true) ++ nackedByte b ++ [true]) .ok 1 [b])
    ∧ e.endsWith (.fresh rq .probe a [] 0 []) ([true] ++ ackedByte (addressByte a false) ++ [true]) .ok 0 []
    ∧ (∀ sh n, sh ≠ .recv → e.endsWith (.fresh rq sh a idx n ds)
        ([true] ++ nackedByte (addressByte a false) ++ [true]) .nackAddr 0 [])
    ∧ (∀ n, e.endsWith (.fresh rq .recv a idx n ds) ([true] ++ nackedByte (addressByte a true) ++ [true]) .nackAddr 0 [])
    ∧ (∀ n, e.endsWith (.fresh rq .read a idx n ds)
        ([true] ++ ackedByte (addressByte a false) ++ idx.flatMap ackedByte ++ [true] ++ nackedByte (addressByte a true)
          ++ [true]) .nackAddr 0 [])
    ∧ (∀ sh pre b post n, sh = .read ∨ sh = .write → e.endsWith (.fresh rq sh a (pre ++ b :: post) n ds)
        ([true] ++ ackedByte (addressByte a false) ++ pre.flatMap ackedByte ++ nackedByte b ++ [true]) .nackData 0 [])
    ∧ (∀ pre b post n, e.endsWith (.fresh rq .write a idx n (pre ++ b :: post))
        ([true] ++ ackedByte (addressByte a false) ++ idx.flatMap ackedByte ++ pre.flatMap ackedByte ++ nackedByte b
          ++ [true]) .nackData pre.length [])
    ∧ ∀ b, e.endsWith (.fresh rq .send a [] 1 [b])
        ([true] ++ ackedByte (addressByte a false) ++ nackedByte b ++ [true]) .nackData 0 [])
  ∧ (∀ (e : Engine) (t : Transaction) (w : WireSlot) (rest : List WireSlot),
    e.recovery = none → e.transaction = some t → t.slots = w :: rest →
    (w = .start → e.sample true = { e with transaction := some { t with slots := rest } }
      ∧ e.sample false = { e with
          recovery := some { cause := .blockedStart, pulses := 0, stage := .settling, outcome := none } })
    ∧ (w = .sendBit true ∨ w = .repStart ∨ w = .stop →
        e.sample false = { e with transaction := some { t with outcome := some .stuck } })
    ∧ (w = .sendBit false ∨ (∃ what, w = .ack what) ∨ w = .recvBit ∨ (∃ k, w = .ownAck k) →
        ∀ b, (e.sample b).recovery = none ∧ (e.sample b).transaction.map Transaction.outcome = some t.outcome)
    ∧ (t.outcome = none →
        (w = .stop → e.stops)
        ∧ (w = .start ∨ w = .repStart → (∀ m, e.mdaAt m = true ↔ m ≠ .high ∧ m ≠ .ended)
            ∧ ∀ m, e.mckAt m = true ↔ m ≠ .ended ∧ (m = .low → w = .start))
        ∧ (∀ b, w = .sendBit b → e.pulses b) ∧ (∀ k, w = .ownAck k → e.pulses (!k))
        ∧ ((∃ what, w = .ack what) ∨ w = .recvBit → e.pulses true)))
  ∧ (∀ (e : Engine) (m : WireMoment), e.driving = false → e.mdaAt m = true ∧ e.mckAt m = true)
  ∧ ∀ t : Transaction, t.report .stuck = { status := .stuck, data := [], count := match t.shape with
      | .read | .recv => t.received.length
      | .write | .send => t.dataAcked
      | .probe => 0 }

/-- An address outcome moves an entry's consecutive-NACK count and its health by the table of R16, with DEVICE_LOST in the
ACTIVE watchers when the count reaches 3 and DEVICE_BACK when it leaves 3; no other entry changes. -/
def Obligations.HealthFollowsAddressOutcome : Prop :=
  ∀ (s : State) (e : EntryNo) (x : Entry) (out : AddressOutcome), s.entry e = some x →
    ∃ (t : State) (y : Entry), s.relayHealth e out = t ∧ t.entry e = some y
      ∧ y = { x with nackCount := y.nackCount }
      ∧ (out = .nack → y.nackCount.val = min 3 (x.nackCount.val + 1)) ∧ (out = .ack → y.nackCount = 0)
      ∧ (out = .noOutcome → y.nackCount = x.nackCount)
      ∧ (y.nackCount.val = 0 → y.health = .present) ∧ (y.nackCount.val = 3 → y.health = .absent)
      ∧ (y.nackCount.val = 1 ∨ y.nackCount.val = 2 → y.health = .suspect)
      ∧ (∀ e', e' ≠ e → t.entry e' = s.entry e')
      ∧ (∀ p, t.port p =
          if hasBit x.watchSet p = true ∧ x.nackCount ≠ 3 ∧ y.nackCount = 3 then (s.port p).raise .deviceLost
          else if hasBit x.watchSet p = true ∧ x.nackCount = 3 ∧ y.nackCount ≠ 3 then (s.port p).raise .deviceBack
          else s.port p)
      ∧ t.engine = s.engine ∧ t.scheduler = s.scheduler ∧ t.phase = s.phase ∧ t.timeBase = s.timeBase

/-- TRANSACTION_COMPLETE (R64, R65, R112): when the transaction of a port position has its outcome, the current record
is removed; unless it is to be discarded the completion record joins the port's queue with status, count, data and
LOCK_LOST, and of a discarded one no record is made; the entry's count follows the address outcome; the flags, Changed
Sets and clear lists are those after the health relay and, exactly for a WRITE or SEND of count 1 or more, the write
notice (R16, R153); the engine goes READY, or RECOVERING after a stuck line. Heads and slots are judged against the
health as it then stands, a DUE slot on an entry turned ABSENT ending NO_DEVICE, and nothing else changes (R90, R91). A
report command whose transaction has no outcome yet is the engine's reading alone, which is the model's choice (log 1).
-/
def Obligations.TransactionCompletes : Prop :=
  (∀ (s : State) (bus : BusRead) (eng : Engine), (s.engine.reads bus.samples).1 = eng →
    (∀ tr, eng.transaction = some tr → tr.outcome = none) →
    ∀ i ∈ [Instr.transactionComplete bus, .pollIterationComplete bus, .loaderReadComplete bus],
      exec i s = .next (s.setEngine (eng.stretchAfter bus.mckLow)))
  ∧ ∀ (s : State) (bus : BusRead) (eng : Engine) (tr : Transaction) (st : BusStatus) (c : Current),
    (s.engine.reads bus.samples).1 = eng → eng.busState = .busy → eng.recovery = none → eng.transaction = some tr →
    tr.requester = .scheduler → tr.outcome = some st → s.scheduler.current = some c → c.slot = none →
    ∃ t, exec (.transactionComplete bus) s = .next t ∧ t.scheduler.current = none
      ∧ (st ≠ .stuck → t.engine.busState = .ready ∧ t.engine.transaction = none)
      ∧ (st = .stuck → t.engine.busState = .recovering ∧ (t.engine.recovery.any fun r => r.cause = .afterStuck) = true)
      ∧ (c.discard = false → s.recordJoins t c.port
          { tag := c.tag, kind := c.kind, entry := BitVec.ofNat 8 c.entry.val,
            status := match st with | .ok => .ok | .nackAddr => .nackAddr | .nackData => .nackData | .stuck => .busStuck,
            lockLost := c.lockLost, previousRelease := none, count := (tr.report st).count,
            data := if st = .ok then tr.received else [] })
      ∧ (∀ p, c.discard = true ∨ p ≠ c.port → s.onlyPollsEnd t p)
      ∧ (∀ x, s.entry c.entry = some x → ∃ y, t.entry c.entry = some y ∧ y = { x with nackCount := y.nackCount }
          ∧ (st = .nackAddr → y.nackCount.val = min 3 (x.nackCount.val + 1))
          ∧ (st = .ok ∨ st = .nackData → y.nackCount = 0) ∧ (st = .stuck → y.nackCount = x.nackCount)
          ∧ (c.kind = .write ∨ c.kind = .send → 1 ≤ (tr.report st).count →
              ∀ q, q ≠ c.port → hasBit x.watchSet q = true → hasBit (t.port q).notify.changed c.entry = true))
      ∧ (∀ s', s' = s.relayHealth c.entry
            (match st with | .ok | .nackData => .ack | .nackAddr => .nack | .stuck => .noOutcome) →
          ∀ p, (t.port p).notify = if (c.kind = .write ∨ c.kind = .send) ∧ 1 ≤ (tr.report st).count then
              ((s'.writeNotice c.entry c.port).port p).notify
            else (s'.port p).notify)
      ∧ (∀ s' u, s' = s.relayHealth c.entry
            (match st with | .ok | .nackData => .ack | .nackAddr => .nack | .stuck => .noOutcome) →
          u = (if (c.kind = .write ∨ c.kind = .send) ∧ 1 ≤ (tr.report st).count then s'.writeNotice c.entry c.port
            else s') →
          (u.setCurrent none).judgedInto t (if c.discard then [] else [(c.port,
            { tag := c.tag, kind := c.kind, entry := BitVec.ofNat 8 c.entry.val,
              status := match st with | .ok => .ok | .nackAddr => .nackAddr | .nackData => .nackData | .stuck => .busStuck,
              lockLost := c.lockLost, previousRelease := none, count := (tr.report st).count,
              data := if st = .ok then tr.received else [] })]))
      ∧ (∀ e, e ≠ c.entry → t.entry e = s.entry e)
      ∧ (∀ p, (t.port p).requests = (s.port p).requests ∧ (t.port p).state = (s.port p).state)
      ∧ t.scheduler.turn = s.scheduler.turn ∧ t.phase = s.phase ∧ t.timeBase = s.timeBase

/-- What a slot does with its iteration's report (R96, R97, R100): with a byte read, the count falls by 1 and the byte is
kept; then cancel-pending ends the poll ABORTED, a met masked compare OK, a count of 0 EXHAUSTED, else it waits the
interval (DUE at once with interval 0); with another status it ends with that status, or ABORTED, the count and last byte
left. -/
def Obligations.PollAnswersReport : Prop :=
  ∀ (q : Poll) (now : Time) (rep : Report),
    (rep.status = .ok → ∀ b more, rep.data = b :: more →
      ∃ q', q' = { q with remaining := q.remaining - 1, lastByte := some b }
        ∧ (q.cancelPending = true → q.answer now rep = (q', some .aborted))
        ∧ (q.cancelPending = false →
          (((q.condition = .untilEqual ∧ b &&& q.mask = q.matchByte &&& q.mask)
              ∨ (q.condition = .untilDifferent ∧ b &&& q.mask ≠ q.matchByte &&& q.mask)) →
            q.answer now rep = (q', some .ok))
          ∧ (((q.condition = .untilEqual ∧ b &&& q.mask ≠ q.matchByte &&& q.mask)
              ∨ (q.condition = .untilDifferent ∧ b &&& q.mask = q.matchByte &&& q.mask)) →
            (q.remaining ≤ 1 → q.answer now rep = (q', some .exhausted))
            ∧ (1 < q.remaining → q.answer now rep =
              ({ q' with nextDue := now.toNat + q.interval, state := if q.interval = 0 then .due else .waiting }, none)))))
    ∧ (rep.status ≠ .ok → q.answer now rep = (q, some (if q.cancelPending then .aborted else
        match rep.status with
        | .ok => .ok | .nackAddr => .nackAddr | .nackData => .nackData | .stuck => .busStuck)))

/-- POLL_ITERATION_COMPLETE (R66, R90, R91, R98, R101): the record of the current transaction is removed and health
relayed; unless the poll was removed by a HOLD, the slot takes the report: a poll that ends frees its slot and its
record, with the remaining count and the last byte read, joins its port's queue; one that waits keeps its slot; one
that is DUE at once, its interval being 0, is judged in the act against the lock as it stands. The engine goes READY,
or RECOVERING with cause after BUS_STUCK after a stuck line (R112). The other entries stand, and the flags, Changed
Sets and clear lists are those after the health relay (R16): an iteration gives no write notice. Heads and slots are
judged against the health as it then stands, a DUE slot on an entry turned ABSENT ending NO_DEVICE, and nothing else
changes (R91). A slot that a HOLD has freed stays free, the report ends no poll but those that judging ends, and a poll
parked there since is not touched. -/
def Obligations.PollIterationCompletes : Prop :=
  ∀ (s : State) (bus : BusRead) (eng : Engine) (tr : Transaction) (st : BusStatus) (c : Current) (k : SlotNo),
    (s.engine.reads bus.samples).1 = eng → eng.busState = .busy → eng.recovery = none → eng.transaction = some tr →
    tr.requester = .scheduler → tr.outcome = some st → s.scheduler.current = some c → c.slot = some k →
    ∃ t, exec (.pollIterationComplete bus) s = .next t ∧ t.scheduler.current = none ∧ t.engine.transaction = none
      ∧ (st ≠ .stuck → t.engine.busState = .ready ∧ t.engine.recovery = none)
      ∧ (st = .stuck → t.engine.busState = .recovering ∧ (t.engine.recovery.any fun r => r.cause = .afterStuck) = true)
      ∧ (∀ e, e ≠ c.entry → t.entry e = s.entry e)
      ∧ (s.poll k = none → t.poll k = none)
      ∧ (s.poll k = none ∨ c.discard = true → ∀ p, s.onlyPollsEnd t p)
      ∧ (∀ q, s.poll k = some q →
        (c.discard = false → ∀ q' out, q.answer s.timeBase (tr.report st) = (q', some out) → t.poll k = none
          ∧ s.recordJoins t q.port (recordOfPoll q' out))
        ∧ (c.discard = false → ∀ q', q.answer s.timeBase (tr.report st) = (q', none) →
          (q'.state = .waiting → t.poll k = some q')
          ∧ (q'.state = .due → q'.entry = c.entry → ∀ x, s.entry c.entry = some x →
            (x.owner = none ∨ x.owner = some q'.port → t.poll k = some q')
            ∧ (∀ o, x.owner = some o → o ≠ q'.port →
              (q'.waitLimit = 0 → t.poll k = none ∧ s.recordJoins t q'.port (recordOfPoll q' .locked))
              ∧ (q'.waitLimit ≠ 0 →
                  t.poll k = some { q' with state := .blocked, blockTimer := some (q'.blockTimer.getD 0) }))))
        ∧ (c.discard = true → q.state = .waiting ∨ q.state = .running → t.poll k = some q))
      ∧ (∀ x, s.entry c.entry = some x → ∃ y, t.entry c.entry = some y ∧ y = { x with nackCount := y.nackCount }
          ∧ (st = .nackAddr → y.nackCount.val = min 3 (x.nackCount.val + 1))
          ∧ (st = .ok ∨ st = .nackData → y.nackCount = 0) ∧ (st = .stuck → y.nackCount = x.nackCount))
      ∧ (∀ p, (t.port p).requests = (s.port p).requests ∧ (t.port p).notify.changed = (s.port p).notify.changed)
      ∧ (∀ p, (t.port p).notify = ((s.relayHealth c.entry
          (match st with | .ok | .nackData => .ack | .nackAddr => .nack | .stuck => .noOutcome)).port p).notify)
      ∧ (∃ (pk : Option Poll) (recs : List (Port × Completion)),
          (((s.relayHealth c.entry
            (match st with | .ok | .nackData => .ack | .nackAddr => .nack | .stuck => .noOutcome)).setCurrent none).setPoll
              k pk).judgedInto t recs
          ∧ (s.poll k = none ∨ c.discard = true → pk = s.poll k ∧ recs = [])
          ∧ ∀ q, s.poll k = some q → c.discard = false → ∀ q' out, q.answer s.timeBase (tr.report st) = (q', out) →
            (out = none → pk = some q' ∧ recs = [])
            ∧ ∀ o, out = some o → pk = none ∧ recs = [(q.port, recordOfPoll q' o)])
      ∧ t.scheduler.turn = s.scheduler.turn ∧ t.phase = s.phase

/-- LOADER_READ_COMPLETE (R164 to R167): bytes that end OK are staged; while the walk waits and 842 bytes are not
staged, the next read, of 16 bytes or those up to 842 at the index after them, is on the bus; a list that has been read
is validated, and its first fault ends the load, or the commit sets the phase by the auto-seal flag and fills the slot
that each record the walk passes names, with its static fields and the slot-filling values, every other slot staying
empty, and sets each port from its port byte, a frame of a port that becomes OFFLINE being discarded (R144); a NACK
ends the load with NO_MEMORY (address, first read) or BUS_ERROR; after BUS_STUCK by a line held low the loader keeps
what it has and waits, the bus RECOVERING with cause after BUS_STUCK. -/
def Obligations.LoaderReadCompletes : Prop :=
  ∀ (s : State) (bus : BusRead) (eng : Engine) (tr : Transaction) (st : BusStatus) (a : BitVec 7) (staged : List Byte),
    (s.engine.reads bus.samples).1 = eng → eng.busState = .busy → eng.recovery = none → eng.transaction = some tr →
    tr.requester = .loader → tr.outcome = some st → s.phase = .loading → s.loader.memAddress = some a →
    staged = s.loader.staging ++ tr.received →
    (st = .ok → (walkFrom staged staged.length s.loader.walk).2.2 = .waits → staged.length < 842 →
      ∃ (t : State) (tr' : Transaction), exec (.loaderReadComplete bus) s = .next t ∧ t.loader.staging = staged
        ∧ t.phase = .loading ∧ t.loader.step = s.loader.step ∧ t.engine.busState = .busy
        ∧ t.engine.transaction = some tr' ∧ tr'.requester = .loader ∧ tr'.address = a ∧ tr'.shape = .read
        ∧ tr'.length = min 16 (842 - staged.length)
        ∧ tr'.indexBytes = [BitVec.ofNat 8 (staged.length / 256), BitVec.ofNat 8 (staged.length % 256)]
        ∧ t.ports = s.ports ∧ t.directory = s.directory)
    ∧ (st = .ok → (walkFrom staged staged.length s.loader.walk).2.2 ≠ .waits ∨ 842 ≤ staged.length →
      (∀ fault, validate staged = some fault → ∃ t, exec (.loaderReadComplete bus) s = .next t ∧ s.loadFailed t fault)
      ∧ (validate staged = none → ∃ t, exec (.loaderReadComplete bus) s = .next t ∧ t.loader.fault = .noFault
          ∧ t.loader.step = .finished
          ∧ t.phase = (if (staged.getD 3 0).getLsbD 0 then .run else .config)
          ∧ t.engine.speed = (if (staged.getD 3 0).getLsbD 1 then .khz400 else .khz100)
          ∧ (∀ e, t.entry e = listedEntry staged e)
          ∧ (∀ r ∈ (walkFrom staged staged.length 8).1, ∀ e : EntryNo, r.number.toNat = e.val →
              ∃ x, t.entry e = some x ∧ r.fills x)
          ∧ (∀ e : EntryNo, (∀ r ∈ (walkFrom staged staged.length 8).1, r.number.toNat ≠ e.val) → t.entry e = none)
          ∧ (∀ p : Port, (t.port p).state = (if (staged.getD (4 + p.val) 0).getLsbD 0 then .active else .offline)
              ∧ (t.port p).level.val = ((staged.getD (4 + p.val) 0).extractLsb' 1 2).toNat
              ∧ (t.port p).notify.route.val = ((staged.getD (4 + p.val) 0).extractLsb' 3 2).toNat
              ∧ (t.port p).notify.clearMode =
                  (if (staged.getD (4 + p.val) 0).getLsbD 5 then .ackClears else .readClears)
              ∧ (t.port p).notify.flags = (s.port p).notify.flags
              ∧ (t.port p).frame = (if (staged.getD (4 + p.val) 0).getLsbD 0 ∨ (s.port p).frame = .idle then
                  (s.port p).frame else .ignored)
              ∧ t.port p = { s.port p with
                  state := (t.port p).state, level := (t.port p).level, origin := none, frame := (t.port p).frame,
                  notify := { (s.port p).notify with
                    route := (t.port p).notify.route, clearMode := (t.port p).notify.clearMode, changed := 0,
                    clearList := .absent } })
          ∧ { t with ports := s.ports, phase := s.phase, loader := s.loader, directory := s.directory,
                     engine := s.engine } = s))
    ∧ (st = .nackAddr ∨ st = .nackData →
      ∃ t, exec (.loaderReadComplete bus) s = .next t ∧ t.engine.busState = .ready
        ∧ s.loadFailed t (if st = .nackAddr ∧ s.loader.staging = [] then .noMemory else .busError))
    ∧ (st = .stuck →
      ∃ eng', exec (.loaderReadComplete bus) s = .next (s.setEngine eng') ∧ eng'.busState = .recovering
        ∧ eng'.transaction = none ∧ (eng'.recovery.any fun r => r.cause = .afterStuck) = true)

/-- The order of the load faults (R167, R174), each found whatever faults of lower rank the list holds as well: a bad
signature; a bad version; a bad header; a bad marker, a bad window count or a record that fails R8; a number of 32 or
more or not above the one before; a bus address twice; a walk that has not come to an end marker and checksum; bytes
that do not sum to 0. A list without any of them passes; and one that passes sums to 0 and repeats no address. The walk
(R164): it waits at a byte not yet staged; 0xFF ends it once the byte after is staged; at 0xE0 it waits for the window
count, 5 places on, stops at a count of 0 or above 4, and else, once all 6 + 5 times the count bytes are staged, yields
the record that stands there and goes on behind it; any other byte stops it. -/
def Obligations.ValidationRanksFaults : Prop :=
  (∀ r : RawRecord, r.valid = true ↔ r.meetsR8) ∧
  ∀ (staged : List Byte) (badHeader : Prop),
    (badHeader ↔ ((∃ i : Fin 6, (staged.getD 3 0).getLsbD (2 + i.val) = true)
      ∨ (∃ p : Port, (staged.getD (4 + p.val) 0).getLsbD 6 = true ∨ (staged.getD (4 + p.val) 0).getLsbD 7 = true)
      ∨ ∀ p : Port, (staged.getD (4 + p.val) 0).getLsbD 0 = false
          ∨ (staged.getD (4 + p.val) 0).extractLsb' 1 2 ≠ 0#2)) →
    (staged.take 2 ≠ [0x46, 0x42] → validate staged = some .badSignature)
    ∧ (staged.take 2 = [0x46, 0x42] → staged.getD 2 0 ≠ 0x01 → validate staged = some .badVersion)
    ∧ (staged.take 2 = [0x46, 0x42] → staged.getD 2 0 = 0x01 → badHeader → validate staged = some .badHeader)
    ∧ (staged.take 2 = [0x46, 0x42] → staged.getD 2 0 = 0x01 → ¬ badHeader →
        ∀ (recs : List RawRecord) (pos : Nat) (stop : WalkStop) (badRecord badOrder twice badSum : Prop),
        walkFrom staged staged.length 8 = (recs, pos, stop) →
        (badRecord ↔ stop = .badMarker ∨ stop = .badCount ∨ ∃ r ∈ recs, r.valid = false) →
        (badOrder ↔ (∃ r ∈ recs, 32 ≤ r.number.toNat) ∨ ¬ (recs.map fun r => r.number.toNat).Pairwise (· < ·)) →
        (twice ↔ ¬ (recs.map RawRecord.address).Nodup) →
        (badSum ↔ ((staged.take (pos + 2)).map BitVec.toNat).sum % 256 ≠ 0) →
        (badRecord → validate staged = some .badRecord)
        ∧ (¬ badRecord → badOrder → validate staged = some .order)
        ∧ (¬ badRecord → ¬ badOrder → twice → validate staged = some .dupAddress)
        ∧ (¬ badRecord → ¬ badOrder → ¬ twice → stop = .waits → validate staged = some .tooLong)
        ∧ (¬ badRecord → ¬ badOrder → ¬ twice → stop ≠ .waits → badSum → validate staged = some .checksum)
        ∧ (¬ badRecord → ¬ badOrder → ¬ twice → stop ≠ .waits → ¬ badSum → validate staged = none))
    ∧ (validate staged = none →
        checksumOf (staged.take ((walkFrom staged staged.length 8).2.1 + 2)) = 0
        ∧ ((walkFrom staged staged.length 8).1.map RawRecord.address).Nodup
        ∧ ∀ r ∈ (walkFrom staged staged.length 8).1, r.valid = true ∧ r.number.toNat < 32)
    ∧ ∀ (pos : Nat) (walk : Nat → List RawRecord × Nat × WalkStop), (∀ at', walk at' = walkFrom staged staged.length at') →
      (staged[pos]? = none → walk pos = ([], pos, .waits))
      ∧ (staged[pos]? = some 0xFF → walk pos = ([], pos, if pos + 1 < staged.length then .ended else .waits))
      ∧ (staged[pos]? = some 0xE0 →
        (staged[pos + 5]? = none → walk pos = ([], pos, .waits))
        ∧ ∀ n, staged[pos + 5]? = some n →
          (n.toNat = 0 ∨ 4 < n.toNat → walk pos = ([], pos, .badCount))
          ∧ (1 ≤ n.toNat → n.toNat ≤ 4 →
            (staged.length < pos + (6 + 5 * n.toNat) → walk pos = ([], pos, .waits))
            ∧ (pos + (6 + 5 * n.toNat) ≤ staged.length →
              ∃ r : RawRecord, r.standsAt staged pos n.toNat
                ∧ walk pos = (r :: (walk (pos + (6 + 5 * n.toNat))).1, (walk (pos + (6 + 5 * n.toNat))).2))))
      ∧ ∀ m, staged[pos]? = some m → m ≠ 0xFF → m ≠ 0xE0 → walk pos = ([], pos, .badMarker)

/-- RECOVERY_COMPLETE (R115, R117 to R121, R163, R165): after BUS_STUCK or in a retry, success leaves the bus READY and
a retry clears the fault indication with BUS_OK in every ACTIVE port outside LOADING; failure enters FAULTED with the
retry timer at 0 and the indication set, raising BUS_FAULT when that begins an episode outside LOADING. After the
BUS_STUCK of a loader read the load ends with BUS_ERROR, the bus READY or FAULTED. A blocked START's success lets its
transaction go on; its failure ends the transaction BUS_STUCK on a FAULTED bus: a request's record joins its queue, a
poll ends, a load ends with BUS_ERROR. A failure of any cause raises BUS_FAULT exactly when it begins a fault episode
outside LOADING. Where no load ends, heads and slots are judged against the bus as it then stands, every DUE slot
ending NO_DEVICE or BUS_FAULT on a FAULTED bus, and nothing but the engine and the flags changes otherwise (R67, R90).
A start-up recovery's success puts the first loader read on the bus, its failure ends the load with BUS_ERROR on a
FAULTED bus. -/
def Obligations.RecoveryHandsOnOutcome : Prop :=
  ∀ (s : State) (bus : BusRead) (eng : Engine) (rest : List Bool) (r : Recovery) (ok : Bool),
    s.engine.reads bus.samples = (eng, rest) → eng.recovery = some r → r.outcome = some ok →
    ∃ t, exec (.recoveryComplete bus) s = .next t
      ∧ (ok = true → r.cause = .afterStuck ∨ r.cause = .retry → s.phase ≠ .loading →
          t.engine.busState = .ready ∧ t.engine.recovery = none ∧ t.engine.transaction = none
          ∧ t.engine.fault = (if r.cause = .retry then false else eng.fault)
          ∧ (r.cause = .retry → ∀ p, (s.port p).state = .active →
              hasBit (t.port p).notify.flags Flag.busOk.index = true))
      ∧ (ok = false → r.cause = .afterStuck ∨ r.cause = .retry → s.phase ≠ .loading →
          t.engine.busState = .faulted ∧ t.engine.recovery = none ∧ t.engine.transaction = none
          ∧ t.engine.retry = some 0 ∧ t.engine.fault = true
          ∧ (eng.fault = false → ∀ p, (s.port p).state = .active →
              hasBit (t.port p).notify.flags Flag.busFault.index = true)
          ∧ (eng.fault = true → ∀ p, (t.port p).notify.flags = (s.port p).notify.flags))
      ∧ (r.cause = .afterStuck → s.phase = .loading → s.loader.step = .reading →
          s.loadFailed t .busError ∧ (ok = true → t.engine.busState = .ready)
          ∧ (ok = false → t.engine.busState = .faulted ∧ t.engine.retry = some 0 ∧ t.engine.fault = true))
      ∧ (ok = true → r.cause = .blockedStart → t = s.setEngine t.engine ∧ t.engine.busState = eng.busState
          ∧ (rest = [] → t.engine.transaction = eng.transaction ∧ t.engine.recovery = none))
      ∧ (ok = false → r.cause = .blockedStart → ∀ tr, eng.transaction = some tr →
          t.engine.busState = .faulted ∧ t.engine.retry = some 0 ∧ t.engine.fault = true
          ∧ s.busFaultTold t eng.fault
          ∧ ∃ s', s.toldBusFault s' eng.fault ∧ (tr.requester = .loader → s'.loadFailed t .busError)
            ∧ (tr.requester = .scheduler → s'.endsStuck t tr))
      ∧ (r.cause = .retry ∨ (r.cause = .afterStuck ∧ ¬ (s.phase = .loading ∧ s.loader.step = .reading)) →
          (ok = true → ∃ s', (if r.cause = .retry ∧ s.phase ≠ .loading then s.raisedAll s' .busOk else s' = s)
            ∧ s'.judgedInto t [])
          ∧ (ok = false → ∃ s', s.toldBusFault s' eng.fault ∧ s'.judgedInto t []))
      ∧ (ok = false → r.cause ≠ .blockedStart → s.busFaultTold t eng.fault)
      ∧ (ok = true → r.cause = .startUp → ∀ a, s.loader.memAddress = some a → s.loader.staging = [] →
          t.loader.step = .reading ∧ t.phase = s.phase ∧ t.engine.busState = .busy
          ∧ (t.engine.transaction.any fun tr =>
              tr.requester = .loader && tr.address = a && tr.indexBytes = [0, 0] && tr.length = 16) = true)
      ∧ (ok = false → r.cause = .startUp →
          (∃ s', s.toldBusFault s' eng.fault ∧ s'.loadFailed t .busError)
          ∧ t.engine.busState = .faulted ∧ t.engine.retry = some 0 ∧ t.engine.fault = true)

/-- STRETCH_LIMIT with the stretch timer above 25 while the engine drives the bus (R113, R116, R111): a transaction
past its first START ends, a scheduler's with its current record removed, a request's BUS_STUCK record made or the poll
ended BUS_STUCK or ABORTED (R97), the entry left as it is, and a write notice given exactly for a WRITE or SEND of
count 1 or more (R64); the loader's with the loader waiting (R165); and a recovery with cause after BUS_STUCK begins;
at its first START it stays and a blocked-START recovery begins; a recovery of any cause fails, the bus FAULTED, and
BUS_FAULT raised exactly when that begins a fault episode outside LOADING (R120): a blocked START's transaction ends
BUS_STUCK (R115), a load that waited ends with BUS_ERROR. Heads and slots are judged against the bus as it then stands
(R67, R90). RETRY on a FAULTED bus whose retry timer has reached 100: the timer is discarded and a recovery with cause
retry begins, the bus RECOVERING and the fault indication as it was; nothing outside the engine changes (R119). Either
command before its limit changes nothing, which is the model's choice (log 1). -/
def Obligations.StretchLimitAndRetry : Prop :=
  ∀ (s : State) (bus : BusRead) (n : Nat),
   (s.engine.busState ≠ .faulted ∨ s.engine.retry.getD 0 < 100 → exec (.retry bus) s = .next s)
   ∧ (s.engine.driving = false ∨ s.engine.stretch.getD 0 ≤ 25 → exec (.stretchLimit bus) s = .next s)
   ∧ (s.engine.busState = .faulted → s.engine.retry = some n → 100 ≤ n →
    ∃ eng : Engine, exec (.retry bus) s = .next (s.setEngine eng) ∧ eng.busState = .recovering ∧ eng.retry = none
      ∧ (eng.recovery.any fun r => r.cause = .retry) = true ∧ eng.transaction = none ∧ eng.fault = s.engine.fault
      ∧ eng.speed = s.engine.speed)
   ∧ (s.engine.driving = true → s.engine.stretch = some n → 25 < n →
    ∃ t, exec (.stretchLimit bus) s = .next t
      ∧ (s.engine.recovery = none → ∀ tr, s.engine.transaction = some tr → tr.atStart = false →
          t.engine.busState = .recovering ∧ t.engine.transaction = none
          ∧ (t.engine.recovery.any fun r => r.cause = .afterStuck) = true
          ∧ (tr.requester = .loader → t = s.setEngine t.engine)
          ∧ (tr.requester = .scheduler → s.endsStuck t tr ∧ (∀ e, t.entry e = s.entry e)
            ∧ ∀ c, s.scheduler.current = some c → ∀ p, (t.port p).notify =
                if c.slot = none ∧ (c.kind = .write ∨ c.kind = .send) ∧ 1 ≤ tr.progress then
                  ((s.writeNotice c.entry c.port).port p).notify
                else (s.port p).notify))
      ∧ (s.engine.recovery = none → ∀ tr, s.engine.transaction = some tr → tr.atStart = true →
          t = s.setEngine t.engine ∧ t.engine.transaction = some tr
          ∧ (t.engine.recovery.any fun r => r.cause = .blockedStart) = true)
      ∧ (∀ r, s.engine.recovery = some r → r.cause ≠ .blockedStart ∨ s.engine.transaction.isSome = true →
          t.engine.busState = .faulted ∧ t.engine.retry = some 0 ∧ t.engine.fault = true
          ∧ s.busFaultTold t s.engine.fault
          ∧ ∃ s', s.toldBusFault s' s.engine.fault
            ∧ (r.cause = .startUp ∨ (r.cause = .afterStuck ∧ s.phase = .loading ∧ s.loader.step = .reading) →
                s'.loadFailed t .busError)
            ∧ (r.cause = .retry ∨ (r.cause = .afterStuck ∧ ¬ (s.phase = .loading ∧ s.loader.step = .reading)) →
                s'.judgedInto t [])
            ∧ (r.cause = .blockedStart → ∀ tr, s.engine.transaction = some tr →
                (tr.requester = .loader → s'.loadFailed t .busError) ∧ (tr.requester = .scheduler → s'.endsStuck t tr))))

/-! ### Expiries -/

/-- LEASE_EXPIRY of a locked entry whose lease has run out (R70, R76): with no DEFERRED LOCK head to take it, or on an
ABSENT entry, the entry is free with reason EXPIRED, its lease value kept; otherwise the longest deferred LOCK head,
ties to the lower port, is given the lock and completes OK with EXPIRED. LEASE_EXPIRED is raised in the old owner; its
transaction on the entry, owned at grant, is marked lock-lost; heads and slots are judged. With time left, or without a
lock, nothing expires (log 1). -/
def Obligations.LeaseExpiryReleasesLock : Prop :=
  (∀ (s : State) (e : EntryNo), (∀ x, s.entry e = some x → x.owner = none ∨ x.leaseRemaining ≠ 0) →
    exec (.leaseExpiry e) s = .next s)
  ∧ ∀ (s s' : State) (e : EntryNo) (x : Entry) (p : Port), s.entry e = some x → x.owner = some p → x.leaseRemaining = 0 →
    s' = (s.setPort p ((s.port p).raise .leaseExpired)).setCurrent (s.scheduler.current.map fun c =>
      if c.slot = none ∧ c.port = p ∧ c.entry = e ∧ c.ownedAtGrant = true then { c with lockLost := true } else c) →
    ((x.nackCount = 3 ∨ ∀ q rq restq d, ¬ s.waitsFor e q rq restq d) →
      exec (.leaseExpiry e) s = .next ((s'.setEntry e
        (some { x with owner := none, leaseRemaining := 0, releaseReason := .expired })).settle []))
    ∧ (x.nackCount ≠ 3 → ∀ (q : Port) (rq : Request) (restq : List Request), s.heir e q rq restq →
      exec (.leaseExpiry e) s = .next (((s'.setPort q ((s.port q).headTaken restq)).setEntry e
          (some { x with owner := some q, leaseValue := rq.lease.toNat, leaseRemaining := rq.lease.toNat * 4,
                         releaseReason := .expired })).settle
        [(q, recordWithoutBus rq rq.entry .ok (some .expired))]))

/-- DEFERRAL_EXPIRY of a DEFERRED head whose timer has reached its wait limit of 1 to 254 (R58): with a free credit the
head is taken and ends LOCKED in the same step (the model's reading, log 11); without one its LOCKED mark is set.
BLOCK_EXPIRY of a BLOCKED slot whose timer has reached its wait limit, not 255 (R93, R98): the poll ends LOCKED with
its remaining count and last byte, its slot freed. POLL_DUE of a WAITING slot whose next-due time has come (R92): it is
DUE and judged. A head that is not DEFERRED, a slot that is not BLOCKED or WAITING, a limit not reached and a wait
limit of 255 expire in none of these ways (log 1). -/
def Obligations.WaitsExpire : Prop :=
  ∀ s : State,
    (∀ p, (s.headState p ≠ some .deferred ∨ (∀ r ∈ (s.port p).requests.head?, r.waitLimit = 255
        ∨ (s.port p).deferral.getD 0 < r.waitLimit.toNat)) → exec (.deferralExpiry p) s = .next s)
    ∧ (∀ k, (∀ q, s.poll k = some q → q.state ≠ .blocked ∨ q.waitLimit = 255 ∨ q.blockTimer.getD 0 < q.waitLimit.toNat) →
        exec (.blockExpiry k) s = .next s)
    ∧ (∀ k, (∀ q, s.poll k = some q → q.state ≠ .waiting ∨ s.timeBase.toNat < q.nextDue) →
        exec (.pollDue k) s = .next s)
    ∧
    (∀ (p : Port) (r : Request) (rest : List Request) (d : Nat), (s.port p).requests = r :: rest →
      s.headState p = some .deferred → (s.port p).deferral = some d → r.waitLimit ≠ 255 → r.waitLimit.toNat ≤ d →
      ((s.port p).completions.length + (s.port p).credits < 8 →
        exec (.deferralExpiry p) s = .next ((s.setPort p ((s.port p).headTaken rest)).settle
          [(p, recordWithoutBus r r.entry .locked none)]))
      ∧ (8 ≤ (s.port p).completions.length + (s.port p).credits →
        exec (.deferralExpiry p) s = .next (s.setPort p { s.port p with lockedMark := true })))
    ∧ ∀ (k : SlotNo) (q : Poll), s.poll k = some q →
      (q.state = .blocked → q.waitLimit ≠ 255 → (∃ n, q.blockTimer = some n ∧ q.waitLimit.toNat ≤ n) →
        exec (.blockExpiry k) s = .next ((s.setPoll k none).settle [(q.port,
          { tag := q.tag, kind := .poll, entry := BitVec.ofNat 8 q.entry.val, status := .locked, lockLost := false,
            previousRelease := none, count := q.remaining, data := q.lastByte.toList })]))
      ∧ (q.state = .waiting → q.nextDue ≤ s.timeBase.toNat →
        exec (.pollDue k) s = .next ((s.setPoll k (some { q with state := .due })).settle []))

/-! ### Invariants -/

/-- The state after reset satisfies every invariant below. -/
def Obligations.InvariantsHoldAtReset : Prop :=
  State.reset.busSound ∧ State.reset.quietOutsideRun ∧ State.reset.loadingIsBare ∧ State.reset.idlePortsBare
    ∧ State.reset.someoneCanRelease ∧ State.reset.creditsBalance ∧ State.reset.tagsDiffer ∧ State.reset.locksSound
    ∧ State.reset.directorySound

/-- Every step keeps the engine's parts in agreement with its bus state, and the current-transaction record with the
transaction on the bus: at most one transaction, the scheduler's in RUN or the loader's in LOADING (R103, R107, R119,
R121). -/
def Obligations.StepKeepsBusSound : Prop := ∀ s t : State, s.busSound → step s = .next t → t.busSound

/-- Every step keeps queues, credits, Poll Table, locks, watch sets and Changed Sets empty outside RUN, and the turn
pointer on P there (R47, R49, R83, R102, R157). -/
def Obligations.StepKeepsQuietOutsideRun : Prop :=
  ∀ s t : State, s.busSound → s.quietOutsideRun → step s = .next t → t.quietOutsideRun

/-- Every step keeps a port that is HELD or OFFLINE without queued requests, records, credits, flags, mask, Changed Set,
polls, locks or watches, gives a hold origin to HELD ports alone, and keeps LOADING bare (R68, R123, R144, R147, R153). -/
def Obligations.StepKeepsIdlePortsBare : Prop :=
  ∀ s t : State, s.busSound → s.quietOutsideRun → s.loadingIsBare → s.idlePortsBare → step s = .next t →
    t.loadingIsBare ∧ t.idlePortsBare

/-- Every step keeps records plus reserved credits of every port at 8 or fewer, the credits equal to its parked polls and
its transaction on the bus, its queue at 8 or fewer and its polls at 3 or fewer (R31, R36, R37, R87). -/
def Obligations.StepKeepsCreditsBalance : Prop :=
  ∀ s t : State, s.busSound → s.creditsBalance → step s = .next t → t.creditsBalance

/-- Every step keeps the tags of one port's queued, executing and parked requests different (R29). -/
def Obligations.StepKeepsTagsDifferent : Prop :=
  ∀ s t : State, s.busSound → s.tagsDiffer → step s = .next t → t.tagsDiffer

/-- Every step keeps each lease within its value times 4 ms and its value within 255, and a free entry without lease and
never with reason BROKEN (R68, R69, R71). -/
def Obligations.StepKeepsLocksSound : Prop := ∀ s t : State, s.locksSound → step s = .next t → t.locksSound

/-- Every step keeps every occupied slot valid and no bus address in two slots (R3, R8). -/
def Obligations.StepKeepsDirectorySound : Prop := ∀ s t : State, s.directorySound → step s = .next t → t.directorySound

/-- No step leaves every level-0 port HELD with an origin other than SELF or OFFLINE: some level-0 port is ACTIVE or can
release itself (R139). -/
def Obligations.StepKeepsSomeoneCanRelease : Prop :=
  ∀ s t : State, s.someoneCanRelease → step s = .next t → t.someoneCanRelease
end

