-- ==== Sys2Proof/Laws/State.lean ====
section
/-! SUPPORT. What each update of the state leaves in each field, by `rfl`, and what a port, an entry or a poll slot reads
after each update. -/

namespace Sys2Proof.Machine

/-! ### `setPort` -/

@[simp] theorem State.pending_setPort (s : State) (p : Port) (u : PortUnit) : (s.setPort p u).pending = s.pending := rfl
@[simp] theorem State.timeBase_setPort (s : State) (p : Port) (u : PortUnit) :
    (s.setPort p u).timeBase = s.timeBase := rfl
@[simp] theorem State.phase_setPort (s : State) (p : Port) (u : PortUnit) : (s.setPort p u).phase = s.phase := rfl
@[simp] theorem State.resetn_setPort (s : State) (p : Port) (u : PortUnit) : (s.setPort p u).resetn = s.resetn := rfl
@[simp] theorem State.loader_setPort (s : State) (p : Port) (u : PortUnit) : (s.setPort p u).loader = s.loader := rfl
@[simp] theorem State.ports_setPort (s : State) (p : Port) (u : PortUnit) :
    (s.setPort p u).ports = s.ports.set p u := rfl
@[simp] theorem State.directory_setPort (s : State) (p : Port) (u : PortUnit) :
    (s.setPort p u).directory = s.directory := rfl
@[simp] theorem State.scheduler_setPort (s : State) (p : Port) (u : PortUnit) :
    (s.setPort p u).scheduler = s.scheduler := rfl
@[simp] theorem State.engine_setPort (s : State) (p : Port) (u : PortUnit) : (s.setPort p u).engine = s.engine := rfl
@[simp] theorem State.freeCount_setPort (s : State) (p : Port) (u : PortUnit) :
    (s.setPort p u).freeCount = s.freeCount := rfl
@[simp] theorem State.entry_setPort (s : State) (p : Port) (u : PortUnit) (i : EntryNo) :
    (s.setPort p u).entry i = s.entry i := rfl
@[simp] theorem State.poll_setPort (s : State) (p : Port) (u : PortUnit) (j : SlotNo) :
    (s.setPort p u).poll j = s.poll j := rfl

/-! ### `modPort` -/

@[simp] theorem State.pending_modPort (s : State) (p : Port) (f : PortUnit → PortUnit) :
    (s.modPort p f).pending = s.pending := rfl
@[simp] theorem State.timeBase_modPort (s : State) (p : Port) (f : PortUnit → PortUnit) :
    (s.modPort p f).timeBase = s.timeBase := rfl
@[simp] theorem State.phase_modPort (s : State) (p : Port) (f : PortUnit → PortUnit) :
    (s.modPort p f).phase = s.phase := rfl
@[simp] theorem State.resetn_modPort (s : State) (p : Port) (f : PortUnit → PortUnit) :
    (s.modPort p f).resetn = s.resetn := rfl
@[simp] theorem State.loader_modPort (s : State) (p : Port) (f : PortUnit → PortUnit) :
    (s.modPort p f).loader = s.loader := rfl
@[simp] theorem State.ports_modPort (s : State) (p : Port) (f : PortUnit → PortUnit) :
    (s.modPort p f).ports = s.ports.set p (f (s.port p)) := rfl
@[simp] theorem State.directory_modPort (s : State) (p : Port) (f : PortUnit → PortUnit) :
    (s.modPort p f).directory = s.directory := rfl
@[simp] theorem State.scheduler_modPort (s : State) (p : Port) (f : PortUnit → PortUnit) :
    (s.modPort p f).scheduler = s.scheduler := rfl
@[simp] theorem State.engine_modPort (s : State) (p : Port) (f : PortUnit → PortUnit) :
    (s.modPort p f).engine = s.engine := rfl
@[simp] theorem State.freeCount_modPort (s : State) (p : Port) (f : PortUnit → PortUnit) :
    (s.modPort p f).freeCount = s.freeCount := rfl
@[simp] theorem State.entry_modPort (s : State) (p : Port) (f : PortUnit → PortUnit) (i : EntryNo) :
    (s.modPort p f).entry i = s.entry i := rfl
@[simp] theorem State.poll_modPort (s : State) (p : Port) (f : PortUnit → PortUnit) (j : SlotNo) :
    (s.modPort p f).poll j = s.poll j := rfl

/-! ### `setResult` -/

@[simp] theorem State.pending_setResult (s : State) (p : Port) (r : ResultCode) :
    (s.setResult p r).pending = s.pending := rfl
@[simp] theorem State.timeBase_setResult (s : State) (p : Port) (r : ResultCode) :
    (s.setResult p r).timeBase = s.timeBase := rfl
@[simp] theorem State.phase_setResult (s : State) (p : Port) (r : ResultCode) : (s.setResult p r).phase = s.phase := rfl
@[simp] theorem State.resetn_setResult (s : State) (p : Port) (r : ResultCode) :
    (s.setResult p r).resetn = s.resetn := rfl
@[simp] theorem State.loader_setResult (s : State) (p : Port) (r : ResultCode) :
    (s.setResult p r).loader = s.loader := rfl
@[simp] theorem State.ports_setResult (s : State) (p : Port) (r : ResultCode) :
    (s.setResult p r).ports = s.ports.set p { s.port p with lastResult := r } := rfl
@[simp] theorem State.directory_setResult (s : State) (p : Port) (r : ResultCode) :
    (s.setResult p r).directory = s.directory := rfl
@[simp] theorem State.scheduler_setResult (s : State) (p : Port) (r : ResultCode) :
    (s.setResult p r).scheduler = s.scheduler := rfl
@[simp] theorem State.engine_setResult (s : State) (p : Port) (r : ResultCode) :
    (s.setResult p r).engine = s.engine := rfl
@[simp] theorem State.freeCount_setResult (s : State) (p : Port) (r : ResultCode) :
    (s.setResult p r).freeCount = s.freeCount := rfl
@[simp] theorem State.entry_setResult (s : State) (p : Port) (r : ResultCode) (i : EntryNo) :
    (s.setResult p r).entry i = s.entry i := rfl
@[simp] theorem State.poll_setResult (s : State) (p : Port) (r : ResultCode) (j : SlotNo) :
    (s.setResult p r).poll j = s.poll j := rfl

/-! ### `mapPorts` -/

@[simp] theorem State.pending_mapPorts (s : State) (f : Port → PortUnit → PortUnit) :
    (s.mapPorts f).pending = s.pending := by
  simp only [State.mapPorts]
@[simp] theorem State.timeBase_mapPorts (s : State) (f : Port → PortUnit → PortUnit) :
    (s.mapPorts f).timeBase = s.timeBase := by
  simp only [State.mapPorts]
@[simp] theorem State.phase_mapPorts (s : State) (f : Port → PortUnit → PortUnit) :
    (s.mapPorts f).phase = s.phase := by
  simp only [State.mapPorts]
@[simp] theorem State.resetn_mapPorts (s : State) (f : Port → PortUnit → PortUnit) :
    (s.mapPorts f).resetn = s.resetn := by
  simp only [State.mapPorts]
@[simp] theorem State.loader_mapPorts (s : State) (f : Port → PortUnit → PortUnit) :
    (s.mapPorts f).loader = s.loader := by
  simp only [State.mapPorts]
@[simp] theorem State.ports_mapPorts (s : State) (f : Port → PortUnit → PortUnit) :
    (s.mapPorts f).ports = Vector.ofFn fun p => f p (s.port p) := rfl
@[simp] theorem State.directory_mapPorts (s : State) (f : Port → PortUnit → PortUnit) :
    (s.mapPorts f).directory = s.directory := by
  simp only [State.mapPorts]
@[simp] theorem State.scheduler_mapPorts (s : State) (f : Port → PortUnit → PortUnit) :
    (s.mapPorts f).scheduler = s.scheduler := by
  simp only [State.mapPorts]
@[simp] theorem State.engine_mapPorts (s : State) (f : Port → PortUnit → PortUnit) :
    (s.mapPorts f).engine = s.engine := by
  simp only [State.mapPorts]
@[simp] theorem State.freeCount_mapPorts (s : State) (f : Port → PortUnit → PortUnit) :
    (s.mapPorts f).freeCount = s.freeCount := by
  simp only [State.mapPorts]
@[simp] theorem State.entry_mapPorts (s : State) (f : Port → PortUnit → PortUnit) (i : EntryNo) :
    (s.mapPorts f).entry i = s.entry i := by
  simp only [State.entry, State.mapPorts]
@[simp] theorem State.poll_mapPorts (s : State) (f : Port → PortUnit → PortUnit) (j : SlotNo) :
    (s.mapPorts f).poll j = s.poll j := by
  simp only [State.poll, State.mapPorts]

/-! ### `setEntry` -/

@[simp] theorem State.pending_setEntry (s : State) (e : EntryNo) (x : Option Entry) :
    (s.setEntry e x).pending = s.pending := rfl
@[simp] theorem State.timeBase_setEntry (s : State) (e : EntryNo) (x : Option Entry) :
    (s.setEntry e x).timeBase = s.timeBase := rfl
@[simp] theorem State.phase_setEntry (s : State) (e : EntryNo) (x : Option Entry) :
    (s.setEntry e x).phase = s.phase := rfl
@[simp] theorem State.resetn_setEntry (s : State) (e : EntryNo) (x : Option Entry) :
    (s.setEntry e x).resetn = s.resetn := rfl
@[simp] theorem State.loader_setEntry (s : State) (e : EntryNo) (x : Option Entry) :
    (s.setEntry e x).loader = s.loader := rfl
@[simp] theorem State.ports_setEntry (s : State) (e : EntryNo) (x : Option Entry) :
    (s.setEntry e x).ports = s.ports := rfl
@[simp] theorem State.directory_setEntry (s : State) (e : EntryNo) (x : Option Entry) :
    (s.setEntry e x).directory = s.directory.set e x := rfl
@[simp] theorem State.scheduler_setEntry (s : State) (e : EntryNo) (x : Option Entry) :
    (s.setEntry e x).scheduler = s.scheduler := rfl
@[simp] theorem State.engine_setEntry (s : State) (e : EntryNo) (x : Option Entry) :
    (s.setEntry e x).engine = s.engine := rfl
@[simp] theorem State.freeCount_setEntry (s : State) (e : EntryNo) (x : Option Entry) :
    (s.setEntry e x).freeCount = s.freeCount := rfl
@[simp] theorem State.port_setEntry (s : State) (e : EntryNo) (x : Option Entry) (n : Port) :
    (s.setEntry e x).port n = s.port n := rfl
@[simp] theorem State.poll_setEntry (s : State) (e : EntryNo) (x : Option Entry) (j : SlotNo) :
    (s.setEntry e x).poll j = s.poll j := rfl

/-! ### `modEntry` -/

@[simp] theorem State.pending_modEntry (s : State) (e : EntryNo) (f : Entry → Entry) :
    (s.modEntry e f).pending = s.pending := rfl
@[simp] theorem State.timeBase_modEntry (s : State) (e : EntryNo) (f : Entry → Entry) :
    (s.modEntry e f).timeBase = s.timeBase := rfl
@[simp] theorem State.phase_modEntry (s : State) (e : EntryNo) (f : Entry → Entry) :
    (s.modEntry e f).phase = s.phase := rfl
@[simp] theorem State.resetn_modEntry (s : State) (e : EntryNo) (f : Entry → Entry) :
    (s.modEntry e f).resetn = s.resetn := rfl
@[simp] theorem State.loader_modEntry (s : State) (e : EntryNo) (f : Entry → Entry) :
    (s.modEntry e f).loader = s.loader := rfl
@[simp] theorem State.ports_modEntry (s : State) (e : EntryNo) (f : Entry → Entry) :
    (s.modEntry e f).ports = s.ports := rfl
@[simp] theorem State.directory_modEntry (s : State) (e : EntryNo) (f : Entry → Entry) :
    (s.modEntry e f).directory = s.directory.set e ((s.entry e).map f) := rfl
@[simp] theorem State.scheduler_modEntry (s : State) (e : EntryNo) (f : Entry → Entry) :
    (s.modEntry e f).scheduler = s.scheduler := rfl
@[simp] theorem State.engine_modEntry (s : State) (e : EntryNo) (f : Entry → Entry) :
    (s.modEntry e f).engine = s.engine := rfl
@[simp] theorem State.freeCount_modEntry (s : State) (e : EntryNo) (f : Entry → Entry) :
    (s.modEntry e f).freeCount = s.freeCount := rfl
@[simp] theorem State.port_modEntry (s : State) (e : EntryNo) (f : Entry → Entry) (n : Port) :
    (s.modEntry e f).port n = s.port n := rfl
@[simp] theorem State.poll_modEntry (s : State) (e : EntryNo) (f : Entry → Entry) (j : SlotNo) :
    (s.modEntry e f).poll j = s.poll j := rfl

/-! ### `mapEntries` -/

@[simp] theorem State.pending_mapEntries (s : State) (f : Entry → Entry) :
    (s.mapEntries f).pending = s.pending := by
  simp only [State.mapEntries]
@[simp] theorem State.timeBase_mapEntries (s : State) (f : Entry → Entry) :
    (s.mapEntries f).timeBase = s.timeBase := by
  simp only [State.mapEntries]
@[simp] theorem State.phase_mapEntries (s : State) (f : Entry → Entry) :
    (s.mapEntries f).phase = s.phase := by
  simp only [State.mapEntries]
@[simp] theorem State.resetn_mapEntries (s : State) (f : Entry → Entry) :
    (s.mapEntries f).resetn = s.resetn := by
  simp only [State.mapEntries]
@[simp] theorem State.loader_mapEntries (s : State) (f : Entry → Entry) :
    (s.mapEntries f).loader = s.loader := by
  simp only [State.mapEntries]
@[simp] theorem State.ports_mapEntries (s : State) (f : Entry → Entry) :
    (s.mapEntries f).ports = s.ports := by
  simp only [State.mapEntries]
@[simp] theorem State.directory_mapEntries (s : State) (f : Entry → Entry) :
    (s.mapEntries f).directory = Vector.ofFn fun e => (s.entry e).map f := rfl
@[simp] theorem State.scheduler_mapEntries (s : State) (f : Entry → Entry) :
    (s.mapEntries f).scheduler = s.scheduler := by
  simp only [State.mapEntries]
@[simp] theorem State.engine_mapEntries (s : State) (f : Entry → Entry) :
    (s.mapEntries f).engine = s.engine := by
  simp only [State.mapEntries]
@[simp] theorem State.freeCount_mapEntries (s : State) (f : Entry → Entry) :
    (s.mapEntries f).freeCount = s.freeCount := by
  simp only [State.mapEntries]
@[simp] theorem State.port_mapEntries (s : State) (f : Entry → Entry) (n : Port) :
    (s.mapEntries f).port n = s.port n := by
  simp only [State.port, State.mapEntries]
@[simp] theorem State.poll_mapEntries (s : State) (f : Entry → Entry) (j : SlotNo) :
    (s.mapEntries f).poll j = s.poll j := by
  simp only [State.poll, State.mapEntries]

/-! ### `setPoll` -/

@[simp] theorem State.pending_setPoll (s : State) (k : SlotNo) (q : Option Poll) :
    (s.setPoll k q).pending = s.pending := rfl
@[simp] theorem State.timeBase_setPoll (s : State) (k : SlotNo) (q : Option Poll) :
    (s.setPoll k q).timeBase = s.timeBase := rfl
@[simp] theorem State.phase_setPoll (s : State) (k : SlotNo) (q : Option Poll) : (s.setPoll k q).phase = s.phase := rfl
@[simp] theorem State.resetn_setPoll (s : State) (k : SlotNo) (q : Option Poll) :
    (s.setPoll k q).resetn = s.resetn := rfl
@[simp] theorem State.loader_setPoll (s : State) (k : SlotNo) (q : Option Poll) :
    (s.setPoll k q).loader = s.loader := rfl
@[simp] theorem State.ports_setPoll (s : State) (k : SlotNo) (q : Option Poll) : (s.setPoll k q).ports = s.ports := rfl
@[simp] theorem State.directory_setPoll (s : State) (k : SlotNo) (q : Option Poll) :
    (s.setPoll k q).directory = s.directory := rfl
@[simp] theorem State.scheduler_setPoll (s : State) (k : SlotNo) (q : Option Poll) :
    (s.setPoll k q).scheduler = { s.scheduler with polls := s.scheduler.polls.set k q } := rfl
@[simp] theorem State.engine_setPoll (s : State) (k : SlotNo) (q : Option Poll) :
    (s.setPoll k q).engine = s.engine := rfl
@[simp] theorem State.freeCount_setPoll (s : State) (k : SlotNo) (q : Option Poll) :
    (s.setPoll k q).freeCount = s.freeCount := rfl
@[simp] theorem State.port_setPoll (s : State) (k : SlotNo) (q : Option Poll) (n : Port) :
    (s.setPoll k q).port n = s.port n := rfl
@[simp] theorem State.entry_setPoll (s : State) (k : SlotNo) (q : Option Poll) (i : EntryNo) :
    (s.setPoll k q).entry i = s.entry i := rfl

/-! ### `mapPolls` -/

@[simp] theorem State.pending_mapPolls (s : State) (f : Option Poll → Option Poll) :
    (s.mapPolls f).pending = s.pending := by
  simp only [State.mapPolls]
@[simp] theorem State.timeBase_mapPolls (s : State) (f : Option Poll → Option Poll) :
    (s.mapPolls f).timeBase = s.timeBase := by
  simp only [State.mapPolls]
@[simp] theorem State.phase_mapPolls (s : State) (f : Option Poll → Option Poll) :
    (s.mapPolls f).phase = s.phase := by
  simp only [State.mapPolls]
@[simp] theorem State.resetn_mapPolls (s : State) (f : Option Poll → Option Poll) :
    (s.mapPolls f).resetn = s.resetn := by
  simp only [State.mapPolls]
@[simp] theorem State.loader_mapPolls (s : State) (f : Option Poll → Option Poll) :
    (s.mapPolls f).loader = s.loader := by
  simp only [State.mapPolls]
@[simp] theorem State.ports_mapPolls (s : State) (f : Option Poll → Option Poll) :
    (s.mapPolls f).ports = s.ports := by
  simp only [State.mapPolls]
@[simp] theorem State.directory_mapPolls (s : State) (f : Option Poll → Option Poll) :
    (s.mapPolls f).directory = s.directory := by
  simp only [State.mapPolls]
@[simp] theorem State.scheduler_mapPolls (s : State) (f : Option Poll → Option Poll) :
    (s.mapPolls f).scheduler = { s.scheduler with polls := Vector.ofFn fun k => f (s.poll k) } := rfl
@[simp] theorem State.engine_mapPolls (s : State) (f : Option Poll → Option Poll) :
    (s.mapPolls f).engine = s.engine := by
  simp only [State.mapPolls]
@[simp] theorem State.freeCount_mapPolls (s : State) (f : Option Poll → Option Poll) :
    (s.mapPolls f).freeCount = s.freeCount := by
  simp only [State.mapPolls]
@[simp] theorem State.port_mapPolls (s : State) (f : Option Poll → Option Poll) (n : Port) :
    (s.mapPolls f).port n = s.port n := by
  simp only [State.port, State.mapPolls]
@[simp] theorem State.entry_mapPolls (s : State) (f : Option Poll → Option Poll) (i : EntryNo) :
    (s.mapPolls f).entry i = s.entry i := by
  simp only [State.entry, State.mapPolls]

/-! ### `setCurrent` -/

@[simp] theorem State.pending_setCurrent (s : State) (c : Option Current) : (s.setCurrent c).pending = s.pending := rfl
@[simp] theorem State.timeBase_setCurrent (s : State) (c : Option Current) :
    (s.setCurrent c).timeBase = s.timeBase := rfl
@[simp] theorem State.phase_setCurrent (s : State) (c : Option Current) : (s.setCurrent c).phase = s.phase := rfl
@[simp] theorem State.resetn_setCurrent (s : State) (c : Option Current) : (s.setCurrent c).resetn = s.resetn := rfl
@[simp] theorem State.loader_setCurrent (s : State) (c : Option Current) : (s.setCurrent c).loader = s.loader := rfl
@[simp] theorem State.ports_setCurrent (s : State) (c : Option Current) : (s.setCurrent c).ports = s.ports := rfl
@[simp] theorem State.directory_setCurrent (s : State) (c : Option Current) :
    (s.setCurrent c).directory = s.directory := rfl
@[simp] theorem State.scheduler_setCurrent (s : State) (c : Option Current) :
    (s.setCurrent c).scheduler = { s.scheduler with current := c } := rfl
@[simp] theorem State.engine_setCurrent (s : State) (c : Option Current) : (s.setCurrent c).engine = s.engine := rfl
@[simp] theorem State.freeCount_setCurrent (s : State) (c : Option Current) :
    (s.setCurrent c).freeCount = s.freeCount := rfl
@[simp] theorem State.port_setCurrent (s : State) (c : Option Current) (n : Port) :
    (s.setCurrent c).port n = s.port n := rfl
@[simp] theorem State.entry_setCurrent (s : State) (c : Option Current) (i : EntryNo) :
    (s.setCurrent c).entry i = s.entry i := rfl
@[simp] theorem State.poll_setCurrent (s : State) (c : Option Current) (j : SlotNo) :
    (s.setCurrent c).poll j = s.poll j := rfl

/-! ### `setTurn` -/

@[simp] theorem State.pending_setTurn (s : State) (t : Position) : (s.setTurn t).pending = s.pending := rfl
@[simp] theorem State.timeBase_setTurn (s : State) (t : Position) : (s.setTurn t).timeBase = s.timeBase := rfl
@[simp] theorem State.phase_setTurn (s : State) (t : Position) : (s.setTurn t).phase = s.phase := rfl
@[simp] theorem State.resetn_setTurn (s : State) (t : Position) : (s.setTurn t).resetn = s.resetn := rfl
@[simp] theorem State.loader_setTurn (s : State) (t : Position) : (s.setTurn t).loader = s.loader := rfl
@[simp] theorem State.ports_setTurn (s : State) (t : Position) : (s.setTurn t).ports = s.ports := rfl
@[simp] theorem State.directory_setTurn (s : State) (t : Position) : (s.setTurn t).directory = s.directory := rfl
@[simp] theorem State.scheduler_setTurn (s : State) (t : Position) :
    (s.setTurn t).scheduler = { s.scheduler with turn := t } := rfl
@[simp] theorem State.engine_setTurn (s : State) (t : Position) : (s.setTurn t).engine = s.engine := rfl
@[simp] theorem State.freeCount_setTurn (s : State) (t : Position) : (s.setTurn t).freeCount = s.freeCount := rfl
@[simp] theorem State.port_setTurn (s : State) (t : Position) (n : Port) :
    (s.setTurn t).port n = s.port n := rfl
@[simp] theorem State.entry_setTurn (s : State) (t : Position) (i : EntryNo) :
    (s.setTurn t).entry i = s.entry i := rfl
@[simp] theorem State.poll_setTurn (s : State) (t : Position) (j : SlotNo) :
    (s.setTurn t).poll j = s.poll j := rfl

/-! ### `setEngine` -/

@[simp] theorem State.pending_setEngine (s : State) (e : Engine) : (s.setEngine e).pending = s.pending := rfl
@[simp] theorem State.timeBase_setEngine (s : State) (e : Engine) : (s.setEngine e).timeBase = s.timeBase := rfl
@[simp] theorem State.phase_setEngine (s : State) (e : Engine) : (s.setEngine e).phase = s.phase := rfl
@[simp] theorem State.resetn_setEngine (s : State) (e : Engine) : (s.setEngine e).resetn = s.resetn := rfl
@[simp] theorem State.loader_setEngine (s : State) (e : Engine) : (s.setEngine e).loader = s.loader := rfl
@[simp] theorem State.ports_setEngine (s : State) (e : Engine) : (s.setEngine e).ports = s.ports := rfl
@[simp] theorem State.directory_setEngine (s : State) (e : Engine) : (s.setEngine e).directory = s.directory := rfl
@[simp] theorem State.scheduler_setEngine (s : State) (e : Engine) : (s.setEngine e).scheduler = s.scheduler := rfl
@[simp] theorem State.engine_setEngine (s : State) (e : Engine) : (s.setEngine e).engine = e := rfl
@[simp] theorem State.freeCount_setEngine (s : State) (e : Engine) : (s.setEngine e).freeCount = s.freeCount := rfl
@[simp] theorem State.port_setEngine (s : State) (e : Engine) (n : Port) :
    (s.setEngine e).port n = s.port n := rfl
@[simp] theorem State.entry_setEngine (s : State) (e : Engine) (i : EntryNo) :
    (s.setEngine e).entry i = s.entry i := rfl
@[simp] theorem State.poll_setEngine (s : State) (e : Engine) (j : SlotNo) :
    (s.setEngine e).poll j = s.poll j := rfl

/-! ### Reading after writing -/

/-- A port after one port is replaced. -/
@[simp] theorem State.port_setPort (s : State) (p q : Port) (u : PortUnit) :
    (s.setPort p u).port q = if q = p then u else s.port q := by
  by_cases h : q = p
  · subst h; simp [State.port, State.setPort]
  · have : p.val ≠ q.val := fun x => h (Fin.ext x.symm)
    simp [State.port, State.setPort, h, this]

/-- A port after one port is changed. -/
@[simp] theorem State.port_modPort (s : State) (p q : Port) (f : PortUnit → PortUnit) :
    (s.modPort p f).port q = if q = p then f (s.port q) else s.port q := by
  by_cases h : q = p
  · subst h; simp [State.modPort]
  · simp [State.modPort, h]

/-- A port after one last result is set. -/
@[simp] theorem State.port_setResult (s : State) (p q : Port) (r : ResultCode) :
    (s.setResult p r).port q = if q = p then { s.port q with lastResult := r } else s.port q := by
  simp [State.setResult]

/-- A port after every port is changed. -/
@[simp] theorem State.port_mapPorts (s : State) (f : Port → PortUnit → PortUnit) (q : Port) :
    (s.mapPorts f).port q = f q (s.port q) := by
  simp [State.port, State.mapPorts]

/-- An entry after one slot is replaced. -/
@[simp] theorem State.entry_setEntry (s : State) (e i : EntryNo) (x : Option Entry) :
    (s.setEntry e x).entry i = if i = e then x else s.entry i := by
  by_cases h : i = e
  · subst h; simp [State.entry, State.setEntry]
  · have : e.val ≠ i.val := fun y => h (Fin.ext y.symm)
    simp [State.entry, State.setEntry, h, this]

/-- An entry after one entry is changed. -/
@[simp] theorem State.entry_modEntry (s : State) (e i : EntryNo) (f : Entry → Entry) :
    (s.modEntry e f).entry i = if i = e then (s.entry i).map f else s.entry i := by
  by_cases h : i = e
  · subst h; simp [State.modEntry]
  · simp [State.modEntry, h]

/-- An entry after every entry is changed. -/
@[simp] theorem State.entry_mapEntries (s : State) (f : Entry → Entry) (i : EntryNo) :
    (s.mapEntries f).entry i = (s.entry i).map f := by
  simp [State.entry, State.mapEntries]

/-- A poll slot after one slot is replaced. -/
@[simp] theorem State.poll_setPoll (s : State) (k j : SlotNo) (q : Option Poll) :
    (s.setPoll k q).poll j = if j = k then q else s.poll j := by
  by_cases h : j = k
  · subst h; simp [State.poll, State.setPoll]
  · have : k.val ≠ j.val := fun y => h (Fin.ext y.symm)
    simp [State.poll, State.setPoll, h, this]

/-- A poll slot after every slot is changed. -/
@[simp] theorem State.poll_mapPolls (s : State) (f : Option Poll → Option Poll) (j : SlotNo) :
    (s.mapPolls f).poll j = f (s.poll j) := by
  simp [State.poll, State.mapPolls]

/-! ### Writing twice, and writing back -/

/-- Of two writes of one port the later counts. -/
@[simp] theorem State.setPort_setPort (s : State) (p : Port) (u v : PortUnit) :
    (s.setPort p u).setPort p v = s.setPort p v := by simp [State.setPort]

/-- Of two writes of one entry the later counts. -/
@[simp] theorem State.setEntry_setEntry (s : State) (e : EntryNo) (x y : Option Entry) :
    (s.setEntry e x).setEntry e y = s.setEntry e y := by simp [State.setEntry]

/-- Of two writes of one poll slot the later counts. -/
@[simp] theorem State.setPoll_setPoll (s : State) (k : SlotNo) (x y : Option Poll) :
    (s.setPoll k x).setPoll k y = s.setPoll k y := by simp [State.setPoll]

/-- Of two writes of the engine the later counts. -/
@[simp] theorem State.setEngine_setEngine (s : State) (e f : Engine) : (s.setEngine e).setEngine f = s.setEngine f := rfl

/-- A port written with what it holds is no change. -/
theorem State.setPort_self (s : State) (p : Port) : s.setPort p (s.port p) = s := by
  simp [State.setPort, State.port]

/-- An entry written with what it holds is no change. -/
theorem State.setEntry_self (s : State) (e : EntryNo) : s.setEntry e (s.entry e) = s := by
  simp [State.setEntry, State.entry]

/-- A poll slot written with what it holds is no change. -/
theorem State.setPoll_self (s : State) (k : SlotNo) : s.setPoll k (s.poll k) = s := by
  simp [State.setPoll, State.poll]

/-- A change of one port is a write of that port. -/
theorem State.modPort_eq (s : State) (p : Port) (f : PortUnit → PortUnit) : s.modPort p f = s.setPort p (f (s.port p)) :=
  rfl

/-- Two states with equal fields, ports, entries and poll slots are equal. -/
theorem State.eq_of_parts {s t : State} (pending : s.pending = t.pending) (time : s.timeBase = t.timeBase)
    (phase : s.phase = t.phase) (resetn : s.resetn = t.resetn) (loader : s.loader = t.loader)
    (ports : ∀ p, s.port p = t.port p) (entries : ∀ e, s.entry e = t.entry e)
    (turn : s.scheduler.turn = t.scheduler.turn) (current : s.scheduler.current = t.scheduler.current)
    (polls : ∀ k, s.poll k = t.poll k) (engine : s.engine = t.engine) (free : s.freeCount = t.freeCount) : s = t := by
  obtain ⟨p1, t1, ph1, r1, l1, po1, d1, ⟨tu1, c1, q1⟩, e1, f1⟩ := s
  obtain ⟨p2, t2, ph2, r2, l2, po2, d2, ⟨tu2, c2, q2⟩, e2, f2⟩ := t
  have hp : po1 = po2 := Vector.ext fun i hi => ports ⟨i, hi⟩
  have hd : d1 = d2 := Vector.ext fun i hi => entries ⟨i, hi⟩
  have hq : q1 = q2 := Vector.ext fun i hi => polls ⟨i, hi⟩
  simp_all

/-! ### Sets of bits -/

/-- A member of a set with one member added. -/
@[simp] theorem hasBit_withBit {w : Nat} (s : BitVec w) (i j : Fin w) :
    hasBit (withBit s i) j = (hasBit s j || decide (j = i)) := by
  have h := j.isLt
  by_cases e : j = i
  · subst e; simp [hasBit, withBit]
  · have : i.val ≠ j.val := fun x => e (Fin.ext x.symm)
    simp [hasBit, withBit, e, this.symm]

/-- A member of a set with one member removed. -/
@[simp] theorem hasBit_withoutBit {w : Nat} (s : BitVec w) (i j : Fin w) :
    hasBit (withoutBit s i) j = (hasBit s j && decide (j ≠ i)) := by
  have h := j.isLt
  by_cases e : j = i
  · subst e; simp [hasBit, withoutBit]
  · have : i.val ≠ j.val := fun x => e (Fin.ext x.symm)
    simp [hasBit, withoutBit, e, this.symm]

/-- A member of a set with the members of another taken out. -/
@[simp] theorem hasBit_minus {w : Nat} (s t : BitVec w) (i : Fin w) :
    hasBit (s &&& ~~~t) i = (hasBit s i && !hasBit t i) := by
  simp [hasBit]

/-- The empty set has no member. -/
@[simp] theorem hasBit_zero {w : Nat} (i : Fin w) : hasBit (0#w) i = false := by simp [hasBit]

end Sys2Proof.Machine
end

