-- ==== Sys2Proof/Laws/Ops.lean ====
section
/-! SUPPORT. What each shared operation can do, said once: bytes and codes, raising events, appending records, judging,
releasing a lock, relaying health, giving write notices, ending a frame, reading the wires. -/

namespace Sys2Proof.Machine

/-! ### Bytes and codes -/

/-- A byte's bits make the byte again. -/
@[simp] theorem byteOfBits_bitsOfByte (b : Byte) : byteOfBits (bitsOfByte b) = b := by
  revert b; decide +kernel

/-- The bits of a byte at the front of a sequence are its first whole byte. -/
@[simp] theorem wholeBytes_bitsOfByte (b : Byte) (rest : List Bool) :
    wholeBytes (bitsOfByte b ++ rest) = b :: wholeBytes rest := by
  have h := byteOfBits_bitsOfByte b
  simp only [bitsOfByte] at h
  simp only [bitsOfByte, List.cons_append, List.nil_append, wholeBytes, h]

/-- Fewer than eight bits hold no whole byte. -/
theorem wholeBytes_short {bits : List Bool} (h : bits.length < 8) : wholeBytes bits = [] := by
  match bits, h with
  | [], _ | [_], _ | [_, _], _ | [_, _, _], _ | [_, _, _, _], _ | [_, _, _, _, _], _ | [_, _, _, _, _, _], _
  | [_, _, _, _, _, _, _], _ => rfl

/-- Each command is named by its code. -/
@[simp] theorem commandOfByte_commandCode (c : Command) : commandOfByte (commandCode c) = some c := by
  cases c <;> decide

/-- Two commands with one code are one command. -/
theorem commandCode_injective {c d : Command} (h : commandCode c = commandCode d) : c = d := by
  have := congrArg commandOfByte h
  simpa using this

/-- Each kind is named by its code. -/
@[simp] theorem kindOfByte_kindCode (k : Kind) : kindOfByte (kindCode k) = some k := by
  cases k <;> decide

/-- A byte that names a slot names that one. -/
theorem entryOfByte_eq_some {b : Byte} {e : EntryNo} : entryOfByte b = some e ↔ b.toNat = e.val := by
  unfold entryOfByte
  have := e.isLt
  split <;> simp [Fin.ext_iff]
  omega

/-- A byte of 32 or more names no slot. -/
theorem entryOfByte_eq_none {b : Byte} : entryOfByte b = none ↔ 32 ≤ b.toNat := by
  unfold entryOfByte
  split <;> simp <;> omega

/-- A byte that names a port names that one. -/
theorem portOfByte_eq_some {b : Byte} {p : Port} : portOfByte b = some p ↔ b.toNat = p.val := by
  unfold portOfByte
  have := p.isLt
  split <;> simp [Fin.ext_iff]
  omega

/-- A byte of 4 or more names no port. -/
theorem portOfByte_eq_none {b : Byte} : portOfByte b = none ↔ 4 ≤ b.toNat := by
  unfold portOfByte
  split <;> simp <;> omega

/-! ### Events -/

/-- Raising an event changes a port in its Notify Unit state alone. -/
theorem PortUnit.raise_eq (u : PortUnit) (f : Flag) : u.raise f = { u with notify := (u.raise f).notify } := by
  unfold PortUnit.raise; split <;> rfl

/-- An event raised in an ACTIVE port sets its flag and no other. -/
theorem PortUnit.hasBit_raise (u : PortUnit) (f : Flag) (i : Fin 10) :
    hasBit (u.raise f).notify.flags i = (hasBit u.notify.flags i || decide (u.state = .active ∧ i = f.index)) := by
  unfold PortUnit.raise
  split <;> rename_i h <;> simp [PortUnit.modNotify, h]

/-- Raising an event leaves mask, route, clear mode and Changed Set. -/
theorem PortUnit.notify_raise (u : PortUnit) (f : Flag) :
    (u.raise f).notify = { u.notify with
      flags := (u.raise f).notify.flags, clearList := (u.raise f).notify.clearList } := by
  unfold PortUnit.raise; split <;> rfl

/-- A port after an event is raised in the ports `who` names. -/
@[simp] theorem State.port_raiseIn (s : State) (who : Port → Bool) (f : Flag) (p : Port) :
    (s.raiseIn who f).port p = if who p then (s.port p).raise f else s.port p := by
  simp [State.raiseIn]

/-- Raising events changes the ports alone. -/
theorem State.raiseIn_eq (s : State) (who : Port → Bool) (f : Flag) :
    s.raiseIn who f = { s with ports := (s.raiseIn who f).ports } := rfl

/-! ### Records -/

/-- A record put in by rank is there beside the others. -/
theorem insertByRank_perm (x : Nat × Completion) (l : List (Nat × Completion)) : (insertByRank x l).Perm (x :: l) := by
  induction l with
  | nil => exact .refl _
  | cons y ys ih =>
    unfold insertByRank
    split
    · exact .refl _
    · exact (ih.cons y).trans (.swap x y ys)

/-- Sorting by rank loses and adds no record. -/
theorem sortByRank_perm (l : List (Nat × Completion)) : (sortByRank l).Perm l := by
  induction l with
  | nil => exact .refl _
  | cons x xs ih => exact (insertByRank_perm x _).trans (ih.cons x)

/-- The order of joining loses and adds no record. -/
theorem arrange_perm (n : Nat) (rs : List Completion) : (arrange n rs).Perm rs := by
  unfold arrange
  split
  · exact .refl _
  · refine ((sortByRank_perm _).map _).trans ?_
    rw [List.map_snd_zip (by simp)]

/-- As many records join as there are. -/
@[simp] theorem length_arrange (n : Nat) (rs : List Completion) : (arrange n rs).length = rs.length :=
  (arrange_perm n rs).length_eq

/-- No record, no change of order. -/
@[simp] theorem arrange_nil (n : Nat) : arrange n [] = [] := rfl

/-- One record joins as it is. -/
@[simp] theorem arrange_single (n : Nat) (r : Completion) : arrange n [r] = [r] := rfl

/-- No records go to a port out of none. -/
@[simp] theorem recordsFor_nil (p : Port) : recordsFor [] p = [] := rfl

/-- The records for a port out of a list, one more in front. -/
@[simp] theorem recordsFor_cons (q : Port) (r : Completion) (l : List (Port × Completion)) (p : Port) :
    recordsFor ((q, r) :: l) p = (if q = p then [r] else []) ++ recordsFor l p := by
  unfold recordsFor
  by_cases h : q = p <;> simp [h]

/-- The records for a port out of two lists. -/
theorem recordsFor_append (l m : List (Port × Completion)) (p : Port) :
    recordsFor (l ++ m) p = recordsFor l p ++ recordsFor m p := by simp [recordsFor]

/-- A port after records are appended. -/
@[simp] theorem State.port_append (s : State) (recs : List (Port × Completion)) (p : Port) :
    (s.append recs).port p = { s.port p with
      completions := (s.port p).completions ++ arrange (4 * s.freeCount + p.val) (recordsFor recs p)
      credits := (s.port p).credits - (recordsFor recs p).length } := by
  simp [State.append, State.port, State.mapPorts]

/-- Appending changes the ports and the count of free values alone. -/
theorem State.append_eq (s : State) (recs : List (Port × Completion)) :
    s.append recs = { s with ports := (s.append recs).ports, freeCount := (s.append recs).freeCount } := by
  simp only [State.append, State.mapPorts]

/-! ### Judging -/

/-- Judging a head changes its timer and mark alone. -/
theorem State.judgedPort_eq (s : State) (p : Port) (u : PortUnit) :
    s.judgedPort p u = { u with deferral := (s.judgedPort p u).deferral, lockedMark := (s.judgedPort p u).lockedMark } := by
  unfold State.judgedPort
  split
  · rfl
  · split
    · split
      · rfl
      · split <;> rfl
    · rfl

/-- A head that no lock holds back is left as it is when judged. -/
theorem State.judgedPort_unblocked {s : State} {p : Port} (h : s.headBlocked p = false) (u : PortUnit) :
    s.judgedPort p u = u := by
  unfold State.judgedPort
  split
  · rfl
  · simp [h]

/-- A port after judging and appending. -/
theorem State.port_settle (s : State) (recs : List (Port × Completion)) (p : Port) :
    (s.settle recs).port p = { s.judgedPort p (s.port p) with
      completions := (s.port p).completions ++ arrange (4 * s.freeCount + p.val) (recordsFor (recs ++ s.pollEnds) p)
      credits := (s.port p).credits - (recordsFor (recs ++ s.pollEnds) p).length } := by
  have h := s.judgedPort_eq p (s.port p)
  have hc : (s.judgedPort p (s.port p)).completions = (s.port p).completions := by rw [h]
  have hd : (s.judgedPort p (s.port p)).credits = (s.port p).credits := by rw [h]
  simp [State.settle, State.judgeHeads, hc, hd]

/-- A poll slot after judging and appending. -/
@[simp] theorem State.poll_settle (s : State) (recs : List (Port × Completion)) (k : SlotNo) :
    (s.settle recs).poll k = s.judgedSlot (s.poll k) := by
  have : ∀ (t : State) (l : List (Port × Completion)), (t.append l).poll k = t.poll k := fun t l => by
    simp only [State.append, State.mapPorts, State.poll]
  simp [State.settle, this, State.judgeHeads]

/-- Judging and appending change the ports, the poll slots and the count of free values alone. -/
theorem State.settle_eq (s : State) (recs : List (Port × Completion)) :
    s.settle recs = { s with
      ports := (s.settle recs).ports
      scheduler := { s.scheduler with polls := (s.settle recs).scheduler.polls }
      freeCount := (s.settle recs).freeCount } := by
  simp only [State.settle, State.append, State.mapPorts, State.mapPolls, State.judgeHeads]

/-- The directory after judging. -/
@[simp] theorem State.entry_settle (s : State) (recs : List (Port × Completion)) (e : EntryNo) :
    (s.settle recs).entry e = s.entry e := by rw [State.settle_eq]; rfl

/-- The engine after judging. -/
@[simp] theorem State.engine_settle (s : State) (recs : List (Port × Completion)) :
    (s.settle recs).engine = s.engine := by rw [State.settle_eq]

/-- The phase after judging. -/
@[simp] theorem State.phase_settle (s : State) (recs : List (Port × Completion)) :
    (s.settle recs).phase = s.phase := by rw [State.settle_eq]

/-- The current-transaction record after judging. -/
@[simp] theorem State.current_settle (s : State) (recs : List (Port × Completion)) :
    (s.settle recs).scheduler.current = s.scheduler.current := by rw [State.settle_eq]

/-- The turn pointer after judging. -/
@[simp] theorem State.turn_settle (s : State) (recs : List (Port × Completion)) :
    (s.settle recs).scheduler.turn = s.scheduler.turn := by rw [State.settle_eq]

/-- The queue of commands after judging. -/
@[simp] theorem State.pending_settle (s : State) (recs : List (Port × Completion)) :
    (s.settle recs).pending = s.pending := by rw [State.settle_eq]

/-- The time base after judging. -/
@[simp] theorem State.timeBase_settle (s : State) (recs : List (Port × Completion)) :
    (s.settle recs).timeBase = s.timeBase := by rw [State.settle_eq]

/-- The loader after judging. -/
@[simp] theorem State.loader_settle (s : State) (recs : List (Port × Completion)) :
    (s.settle recs).loader = s.loader := by rw [State.settle_eq]

/-- Judging sees of the engine only whether the bus is FAULTED. -/
theorem State.settle_setEngine (s : State) (e : Engine) (recs : List (Port × Completion))
    (h : e.busState = .faulted ↔ s.engine.busState = .faulted) :
    (s.setEngine e).settle recs = (s.settle recs).setEngine e := by
  have hv : ∀ q, (s.setEngine e).judgeDue q = s.judgeDue q := fun q => by
    simp only [State.judgeDue, State.pollAbsent, State.pollLocked, State.engine_setEngine, State.entry_setEngine, h]
    rfl
  have hs : (s.setEngine e).judgeSlot = s.judgeSlot := by
    funext q
    simp only [State.judgeSlot, hv, State.pollLocked, State.entry_setEngine]
    rfl
  have hr : (s.setEngine e).judgedRecord = s.judgedRecord := by funext q; simp only [State.judgedRecord, hs]
  have hd : (s.setEngine e).judgedSlot = s.judgedSlot := by funext q; simp only [State.judgedSlot, hs]
  have he : (s.setEngine e).pollEnds = s.pollEnds := by simp only [State.pollEnds, hr, State.poll_setEngine]
  unfold State.settle
  rw [he, hd]
  rfl

/-! ### Locks -/


/-- The DEFERRED state of a head, in terms of the lock that holds it back. -/
theorem State.headState_deferred {s : State} {p : Port} :
    s.headState p = some .deferred ↔ s.headBlocked p = true ∧ (s.port p).lockedMark = false := by
  unfold State.headState
  cases h : s.head p with
  | none => simp [State.headBlocked, h]
  | some r =>
    cases hb : s.headBlocked p <;> cases hm : (s.port p).lockedMark <;> cases hc : (s.port p).creditFree <;> simp

/-- The entry is locked by another port, as the Lock logic asks it. -/
theorem State.any_lockedByOther {s : State} {e : EntryNo} {p : Port} :
    ((s.entry e).any fun x => x.lockedByOther p) = true ↔ s.lockedAgainst e p := by
  cases hx : s.entry e with
  | none => simp [State.lockedAgainst, hx]
  | some x =>
    cases ho : x.owner with
    | none => simp [State.lockedAgainst, hx, Entry.lockedByOther, ho]
    | some q => simp [State.lockedAgainst, hx, Entry.lockedByOther, ho]

/-- A port's head is blocked exactly when a lock holds it back. -/
theorem State.headBlocked_iff {s : State} {p : Port} {r : Request} {rest : List Request}
    (h : (s.port p).requests = r :: rest) : s.headBlocked p = true ↔ s.heldBack p r := by
  have hd : defersOnLock r.kind = true ↔ r.kind ∈ ([.read, .write, .send, .recv, .probe, .lock] : List Kind) := by
    cases r.kind <;> simp [defersOnLock]
  have hl : ((s.requestEntry r).any fun e => e.lockedByOther p) = true
      ↔ ∃ e, entryOfByte r.entry = some e ∧ s.lockedAgainst e p := by
    unfold State.requestEntry
    cases he : entryOfByte r.entry with
    | none => simp
    | some e => simp only [Option.bind_some, State.any_lockedByOther, Option.some.injEq, exists_eq_left']
  simp only [State.headBlocked, State.head, h, List.head?_cons, Option.any_some, Bool.and_eq_true, hd, hl]

/-- A head is ready to be taken exactly when its port, its credit and its mark let it and no lock holds it back. -/
theorem State.readyHead_eq_some {s : State} {p : Port} {r : Request} :
    s.readyHead p = some r ↔ (∃ rest, s.headReady p r rest) ∧ ¬ s.heldBack p r := by
  unfold State.readyHead State.headState
  cases h : (s.port p).requests with
  | nil => simp [State.head, State.headReady, h]
  | cons r' rest =>
    have hb := State.headBlocked_iff (p := p) h
    cases hbv : s.headBlocked p <;> cases hm : (s.port p).lockedMark <;> cases hc : (s.port p).creditFree <;>
      simp_all [State.head, State.headReady, PortUnit.creditFree] <;> aesop

/-- A poll slot whose iteration may run is a candidate at P. -/
theorem State.slotMayRun_eq_some {s : State} {k : SlotNo} {q : Poll} :
    s.slotMayRun k = some q ↔ s.slotIsCandidate k q := by
  have ha : s.pollAbsent q = true ↔ s.entryAbsent q.entry := by
    simp [State.pollAbsent, State.entryAbsent, Option.any_eq_true, Entry.absent]
  have hl : s.pollLocked q = true ↔ s.lockedAgainst q.entry q.port := State.any_lockedByOther
  simp only [State.slotMayRun, Option.filter_eq_some_iff, Bool.and_eq_true, decide_eq_true_eq, Bool.not_eq_true',
    State.slotIsCandidate, ← ha, ← hl, Bool.not_eq_true, and_assoc]

/-- A DEFERRED LOCK head takes part in an offer exactly when it waits for the entry's lock, with its timer. -/
theorem State.lockWaiter_eq_some {s : State} {e : EntryNo} {q : Port} {d : Nat} :
    s.lockWaiter e q = some d ↔ ∃ r rest, s.waitsFor e q r rest d := by
  unfold State.lockWaiter
  simp only [State.headState_deferred]
  cases h : (s.port q).requests with
  | nil => simp [State.head, State.waitsFor, h]
  | cons r rest =>
    have hh : s.head q = some r := by simp [State.head, h]
    have hb : entryOfByte r.entry = some e → r.kind = .lock →
        (s.headBlocked q = true ↔ s.lockedAgainst e q) := fun he hk => by
      rw [← State.any_lockedByOther]
      simp [State.headBlocked, hh, hk, defersOnLock, State.requestEntry, he]
    simp only [hh]
    constructor
    · intro hw
      split at hw
      · rename_i hc
        obtain ⟨hk, he, ⟨hl, hm⟩, hf⟩ := hc
        exact ⟨r, rest, h, hk, entryOfByte_eq_some.mp he, (hb he hk).mp hl, hm, hw,
          by simpa [PortUnit.creditFree] using hf⟩
      · cases hw
    · rintro ⟨r', rest', h', hk, he, ha, hm, hd, hf⟩
      obtain ⟨rfl, rfl⟩ : r = r' ∧ rest = rest' := by simpa [h] using h'
      have he' := entryOfByte_eq_some.mpr he
      rw [if_pos ⟨hk, he', ⟨(hb he' hk).mpr ha, hm⟩, by simpa [PortUnit.creditFree] using hf⟩, hd]

/-- No head takes part in an offer exactly when none waits for the entry's lock. -/
theorem State.lockWaiter_eq_none {s : State} {e : EntryNo} {q : Port} :
    s.lockWaiter e q = none ↔ ∀ r rest d, ¬ s.waitsFor e q r rest d := by
  rw [← not_iff_not, ← ne_eq, Option.ne_none_iff_exists']
  simp [State.lockWaiter_eq_some]
  tauto

/-- The best of some waiters and one found before them, those later being of higher port number. -/
theorem foldl_betterWaiter (f : Port → Option Nat) (l : List Port) (hl : l.Pairwise (· < ·)) (b : Option (Port × Nat))
    (hb : ∀ x ∈ b, ∀ p ∈ l, x.1 < p) :
    match l.foldl (fun b p => betterWaiter b p (f p)) b with
    | none => b = none ∧ ∀ p ∈ l, f p = none
    | some x => (b = some x ∨ f x.1 = some x.2)
        ∧ (∀ p ∈ l, ∀ d, f p = some d → d < x.2 ∨ (d = x.2 ∧ x.1 ≤ p))
        ∧ ∀ y ∈ b, y.2 < x.2 ∨ (y.2 = x.2 ∧ x.1 ≤ y.1) := by
  induction l generalizing b with
  | nil => cases b <;> simp
  | cons p l ih =>
    obtain ⟨hp, hl⟩ := List.pairwise_cons.mp hl
    have key := ih hl (betterWaiter b p (f p)) (by
      intro x hx q hq
      cases hf : f p with
      | none => rw [hf] at hx; exact hb x hx q (by simp [hq])
      | some d =>
        cases b with
        | none => simp [betterWaiter, hf] at hx; subst hx; exact hp q hq
        | some y =>
          simp only [betterWaiter, hf] at hx
          split at hx
          · simp at hx; subst hx; exact hp q hq
          · simp at hx; subst hx; exact hb y (by simp) q (by simp [hq]))
    simp only [List.foldl_cons]
    generalize l.foldl (fun b p => betterWaiter b p (f p)) (betterWaiter b p (f p)) = res at key
    cases hf : f p with
    | none =>
      simp only [hf, betterWaiter] at key
      cases res with
      | none => exact ⟨key.1, by simpa [hf] using key.2⟩
      | some x => exact ⟨key.1, by simpa [hf] using key.2.1, key.2.2⟩
    | some d =>
      cases b with
      | none =>
        simp only [hf, betterWaiter] at key
        cases res with
        | none => simp at key
        | some x =>
          obtain ⟨h1, h2, h3⟩ := key
          have h3' := h3 (p, d) (by simp)
          refine ⟨.inr (h1.elim (fun h => by simp at h; subst h; exact hf) id), ?_, by simp⟩
          intro q hq d' hd'
          rcases List.mem_cons.mp hq with rfl | hq
          · rw [hf] at hd'; cases hd'; exact h3'
          · exact h2 q hq d' hd'
      | some y =>
        have hy : y.1 < p := hb y (by simp) p (by simp)
        by_cases hlt : y.2 < d
        · simp only [hf, betterWaiter, hlt, if_true] at key
          cases res with
          | none => simp at key
          | some x =>
            obtain ⟨h1, h2, h3⟩ := key
            have h3' := h3 (p, d) (by simp)
            refine ⟨.inr (h1.elim (fun h => by simp at h; subst h; exact hf) id), ?_, ?_⟩
            · intro q hq d' hd'
              rcases List.mem_cons.mp hq with rfl | hq
              · rw [hf] at hd'; cases hd'; exact h3'
              · exact h2 q hq d' hd'
            · intro z hz
              obtain rfl : y = z := by simpa using hz
              simp only at h3'
              left; omega
        · simp only [hf, betterWaiter, hlt, if_false] at key
          cases res with
          | none => simp at key
          | some x =>
            obtain ⟨h1, h2, h3⟩ := key
            have h3' := h3 y (by simp)
            refine ⟨h1, ?_, ?_⟩
            · intro q hq d' hd'
              rcases List.mem_cons.mp hq with rfl | hq
              · rw [hf] at hd'; cases hd'
                simp only [Fin.le_def, Fin.lt_def] at *
                omega
              · exact h2 q hq d' hd'
            · intro z hz
              obtain rfl : y = z := by simpa using hz
              exact h3'

/-- What an offer comes to: the port whose waiting head has the largest timer, ties to the lower port, or none without a
waiter. -/
theorem State.pickHeir_spec (s : State) (e : EntryNo) :
    match s.pickHeir e with
    | none => ∀ q, s.lockWaiter e q = none
    | some q => ∃ d, s.lockWaiter e q = some d
        ∧ ∀ q' d', s.lockWaiter e q' = some d' → d' < d ∨ (d' = d ∧ q ≤ q') := by
  have h := foldl_betterWaiter (s.lockWaiter e) (List.finRange 4) (by decide) none (by simp)
  unfold State.pickHeir
  generalize (List.finRange 4).foldl (fun b p => betterWaiter b p (s.lockWaiter e p)) none = res at h
  cases res with
  | none => exact fun q => h.2 q (List.mem_finRange q)
  | some x =>
    obtain ⟨h1, h2, -⟩ := h
    exact ⟨x.2, h1.resolve_left (by simp), fun q d hd => h2 q (List.mem_finRange q) d hd⟩

/-- The port an offer picks is the heir. -/
theorem State.pickHeir_heir {s : State} {e : EntryNo} {q : Port} (h : s.pickHeir e = some q) :
    ∃ r rest, s.heir e q r rest := by
  have := s.pickHeir_spec e
  rw [h] at this
  obtain ⟨d, hd, hmax⟩ := this
  obtain ⟨r, rest, hw⟩ := State.lockWaiter_eq_some.mp hd
  exact ⟨r, rest, d, hw, fun q' r' rest' d' hw' => hmax q' d' (State.lockWaiter_eq_some.mpr ⟨r', rest', hw'⟩)⟩

/-- The heir is the port an offer picks, and its head. -/
theorem State.pickHeir_of_heir {s : State} {e : EntryNo} {q : Port} {r : Request} {rest : List Request}
    (h : s.heir e q r rest) : s.pickHeir e = some q ∧ s.head q = some r := by
  obtain ⟨d, hw, hmax⟩ := h
  have hd := State.lockWaiter_eq_some.mpr ⟨r, rest, hw⟩
  refine ⟨?_, by simp [State.head, hw.1]⟩
  have hs := s.pickHeir_spec e
  cases hp : s.pickHeir e with
  | none => rw [hp] at hs; simp [hs q] at hd
  | some q' =>
    rw [hp] at hs
    obtain ⟨d', hd', hmax'⟩ := hs
    obtain ⟨r', rest', hw'⟩ := State.lockWaiter_eq_some.mp hd'
    have h1 : d' < d ∨ (d' = d ∧ q ≤ q') := hmax q' r' rest' d' hw'
    have h2 : d < d' ∨ (d = d' ∧ q' ≤ q) := hmax' q d hd
    have : q' = q := by
      rw [Fin.ext_iff]
      simp only [Fin.le_def] at h1 h2
      omega
    rw [this]

/-- The port whose deferral timer is the largest, ties to the lower port, is the heir. -/
theorem State.heir_of_lockWaiter {s : State} {e : EntryNo} {q : Port} {d : Nat} {r : Request} {rest : List Request}
    (hd : s.lockWaiter e q = some d) (hq : (s.port q).requests = r :: rest)
    (hmax : ∀ q' d', s.lockWaiter e q' = some d' → d' < d ∨ (d' = d ∧ q ≤ q')) : s.heir e q r rest := by
  obtain ⟨r', rest', hw⟩ := State.lockWaiter_eq_some.mp hd
  obtain ⟨rfl, rfl⟩ : r = r' ∧ rest = rest' := by simpa [hq] using hw.1
  exact ⟨d, hw, fun q' r' rest' d' hw' => hmax q' d' (State.lockWaiter_eq_some.mpr ⟨r', rest', hw'⟩)⟩

/-- A release without an heir: the entry becomes free with the reason written, and no record joins. -/
theorem State.release_free {s : State} {e : EntryNo} {reason : ReleaseReason}
    (h : (s.entry e).any Entry.absent = true
      ∨ (s.modEntry e fun en => { en with releaseReason := reason }).pickHeir e = none) :
    s.release e reason
      = (s.setEntry e ((s.entry e).map fun en => { en with owner := none, leaseRemaining := 0, releaseReason := reason }),
         []) := by
  have key : (s.modEntry e fun en => { en with releaseReason := reason }).modEntry e Entry.unlock
      = s.setEntry e ((s.entry e).map fun en =>
          { en with owner := none, leaseRemaining := 0, releaseReason := reason }) := by
    simp only [State.modEntry, State.setEntry_setEntry, State.entry_setEntry, if_true, Option.map_map]
    rfl
  unfold State.release
  by_cases ha : (s.entry e).any Entry.absent = true
  · simp only [ha, if_true, key]
  · have hp := h.resolve_left ha
    simp only [ha, hp, key]
    rfl

/-- A release with an heir: the lock passes to it with its own lease, its head is taken, and its record joins. -/
theorem State.release_handOver {s : State} {e : EntryNo} {reason : ReleaseReason} {x : Entry} {p : Port} {r : Request}
    (hx : s.entry e = some x) (ha : x.absent = false)
    (hp : (s.modEntry e fun en => { en with releaseReason := reason }).pickHeir e = some p) (hr : s.head p = some r) :
    s.release e reason
      = ((s.setEntry e (some { x with
            owner := some p, leaseValue := r.lease.toNat, leaseRemaining := r.lease.toNat * 4
            releaseReason := reason })).setPort p (s.port p).takeHead,
         [(p, plainRecord r .ok (some (previousOf reason)))]) := by
  have hh : (s.modEntry e fun en => { en with releaseReason := reason }).head p = some r := hr
  have hm : ((s.modEntry e fun en => { en with releaseReason := reason }).modEntry e fun en => en.lockTo p r.lease.toNat)
      = s.setEntry e (some { x with
          owner := some p, leaseValue := r.lease.toNat, leaseRemaining := r.lease.toNat * 4
          releaseReason := reason }) := by
    simp only [State.modEntry, State.setEntry_setEntry, State.entry_setEntry, if_true, hx, Option.map_some]
    rfl
  unfold State.release
  simp only [hx, Option.any_some, ha, hp, hh, State.handOver, hm]
  rfl

/-- Who waits for a lock does not hang on the release reasons in the directory. -/
theorem State.waitsFor_reason {s : State} {e i : EntryNo} {reason : ReleaseReason} {q : Port} {r : Request}
    {rest : List Request} {d : Nat} :
    (s.modEntry e fun en => { en with releaseReason := reason }).waitsFor i q r rest d ↔ s.waitsFor i q r rest d := by
  have h : (s.modEntry e fun en => { en with releaseReason := reason }).lockedAgainst i q ↔ s.lockedAgainst i q := by
    rw [← State.any_lockedByOther, ← State.any_lockedByOther]
    simp only [State.modEntry, State.entry_setEntry]
    split
    · rename_i hi; subst hi; cases s.entry i <;> rfl
    · rfl
  unfold State.waitsFor
  rw [h]
  rfl

/-- A release that no head waits for, or of an ABSENT entry: the entry becomes free with the reason written. -/
theorem State.release_unclaimed {s : State} {e : EntryNo} {x : Entry} {reason : ReleaseReason} (hx : s.entry e = some x)
    (h : x.nackCount = 3 ∨ ∀ q r rest d, ¬ s.waitsFor e q r rest d) :
    s.release e reason
      = (s.setEntry e (some { x with owner := none, leaseRemaining := 0, releaseReason := reason }), []) := by
  rw [State.release_free, hx]
  · rfl
  · refine h.imp (fun h => by simp [hx, Entry.absent, h]) fun h => ?_
    cases hp : (s.modEntry e fun en => { en with releaseReason := reason }).pickHeir e with
    | none => rfl
    | some q =>
      obtain ⟨r, rest, d, hw, -⟩ := State.pickHeir_heir hp
      exact absurd (State.waitsFor_reason.mp hw) (h q r rest d)

/-- A release that an heir takes: the lock passes to it with its own lease, its head is taken, and its record joins. -/
theorem State.release_claimed {s : State} {e : EntryNo} {x : Entry} {reason : ReleaseReason} {q : Port} {r : Request}
    {rest : List Request} (hx : s.entry e = some x) (ha : x.nackCount ≠ 3) (h : s.heir e q r rest) :
    s.release e reason
      = ((s.setEntry e (some { x with
            owner := some q, leaseValue := r.lease.toNat, leaseRemaining := r.lease.toNat * 4
            releaseReason := reason })).setPort q ((s.port q).headTaken rest),
         [(q, recordWithoutBus r r.entry .ok (some (previousOf reason)))]) := by
  obtain ⟨d, hw, hmax⟩ := h
  have h' : (s.modEntry e fun en => { en with releaseReason := reason }).heir e q r rest :=
    ⟨d, State.waitsFor_reason.mpr hw, fun q' r' rest' d' hw' => hmax q' r' rest' d' (State.waitsFor_reason.mp hw')⟩
  have ht : (s.port q).takeHead = (s.port q).headTaken rest := by
    simp [PortUnit.takeHead, PortUnit.dropHead, PortUnit.headTaken, hw.1]
  have hr : plainRecord r .ok (some (previousOf reason)) = recordWithoutBus r r.entry .ok (some (previousOf reason)) := by
    simp [plainRecord, recordWithoutBus, hw.2.1]
  rw [State.release_handOver hx (by simpa [Entry.absent] using ha) (State.pickHeir_of_heir h').1
    (State.pickHeir_of_heir ⟨d, hw, hmax⟩).2, ht, hr]

/-- The lock-lost mark touches the current-transaction record alone. -/
theorem State.markLockLost_eq (s : State) (e : EntryNo) (p : Port) :
    s.markLockLost e p = s.setCurrent (s.scheduler.current.map fun c =>
      if c.slot = none ∧ c.port = p ∧ c.entry = e ∧ c.ownedAtGrant = true then { c with lockLost := true } else c) := by
  unfold State.markLockLost
  cases hc : s.scheduler.current with
  | none =>
    simp only [Option.map_none, State.setCurrent]
    rw [← hc]
  | some c =>
    simp only [Option.map_some]
    split
    · rfl
    · simp only [State.setCurrent]
      rw [← hc]

/-! ### Health and write notices -/

/-- The count after an address outcome, in numbers. -/
theorem countAfter_val (c : Fin 4) :
    (countAfter c .nack).val = min 3 (c.val + 1) ∧ countAfter c .ack = 0 ∧ countAfter c .noOutcome = c := by
  revert c; decide

/-- The entry after an address outcome. -/
theorem State.entry_relayHealth (s : State) (e i : EntryNo) (out : AddressOutcome) :
    (s.relayHealth e out).entry i =
      if i = e then (s.entry i).map fun x => { x with nackCount := countAfter x.nackCount out } else s.entry i := by
  have hr : ∀ (t : State) (w : Port → Bool) (f : Flag), (t.raiseIn w f).entry i = t.entry i := fun t w f => by
    simp [State.raiseIn]
  unfold State.relayHealth
  split
  · rename_i h
    split
    · rename_i hi; subst hi; simp [h]
    · rfl
  · simp only []
    split
    · simp [hr]
    · split <;> simp [hr]

/-- An address outcome changes the ports and the directory alone. -/
theorem State.relayHealth_eq (s : State) (e : EntryNo) (out : AddressOutcome) :
    s.relayHealth e out = { s with
      ports := (s.relayHealth e out).ports, directory := (s.relayHealth e out).directory } := by
  unfold State.relayHealth
  split
  · rfl
  · simp only []
    split
    · rfl
    · split <;> rfl

/-- A transaction without an address outcome leaves health as it is (R16). -/
@[simp] theorem State.relayHealth_noOutcome (s : State) (e : EntryNo) : s.relayHealth e .noOutcome = s := by
  unfold State.relayHealth
  cases hx : s.entry e with
  | none => rfl
  | some x =>
    have hm : (s.modEntry e fun x => { x with nackCount := countAfter x.nackCount .noOutcome }) = s := by
      have hd : s.directory.set e (s.entry e) = s.directory := by simp [State.entry]
      simp only [State.modEntry, State.setEntry, countAfter, Option.map_id', hd]
    have h1 : ¬ (x.nackCount ≠ 3 ∧ countAfter x.nackCount .noOutcome = 3) := fun h => h.1 h.2
    have h2 : ¬ (x.nackCount = 3 ∧ countAfter x.nackCount .noOutcome ≠ 3) := fun h => h.2 h.1
    simp only [hm, if_neg h1, if_neg h2]

/-- A write notice changes the ports alone. -/
theorem State.writeNotice_eq (s : State) (e : EntryNo) (writer : Port) :
    s.writeNotice e writer = { s with ports := (s.writeNotice e writer).ports } := by
  unfold State.writeNotice
  split <;> rfl

/-- A port after a write notice. -/
theorem State.port_writeNotice {s : State} {e : EntryNo} {x : Entry} (h : s.entry e = some x) (writer p : Port) :
    (s.writeNotice e writer).port p =
      if hasBit x.watchSet p = true ∧ p ≠ writer then (s.port p).notice e else s.port p := by
  unfold State.writeNotice
  rw [h]
  simp

/-! ### Frames -/

/-- The frame that ends, as the command's rule is handed it. -/
theorem State.frameAt_ends {s : State} {p : Port} {bits : List Bool} {f : Frame} {b0 : Byte} {args : List Byte}
    (h : s.frameEnds p bits f b0 args) :
    s.frameAt p bits = some (b0, { response := f.response, heldSince := f.heldSince,
                                   clearList := (s.port p).notify.clearList, args := args }) := by
  obtain ⟨ho, hf, hl, hw⟩ := h
  obtain ⟨l, hl⟩ := Option.isSome_iff_exists.mp hl
  unfold State.frameAt
  simp only [ho, if_false, hf, hw, hl]

/-- The frame end of a command whose frame is in progress: it closes and is judged. -/
theorem State.frameEnd_ends {s : State} {p : Port} {bits : List Bool} {f : Frame} {c : Command} {args : List Byte}
    (h : s.frameEnds p bits f (commandCode c) args) (rule : FrameEnd → State → State) :
    s.frameEnd p c bits rule = (s.closeFrame p).portLevel p c
      { response := f.response, heldSince := f.heldSince, clearList := (s.port p).notify.clearList, args := args }
      rule := by
  unfold State.frameEnd
  rw [State.frameAt_ends h]
  simp

/-- The closed frame's state, as a write of the port. -/
theorem State.closeFrame_eq (s : State) (p : Port) :
    s.closeFrame p = s.setPort p { s.port p with
      frame := .idle, notify := { (s.port p).notify with clearList := .absent } } := rfl

/-- A frame that passes the port-level handling is judged by its command's own rule. -/
theorem State.frameEnd_judged {s : State} {p : Port} {bits : List Bool} {f : Frame} {c : Command} {args : List Byte}
    (h : s.frameJudged p bits f c args) (rule : FrameEnd → State → State) :
    s.frameEnd p c bits rule = rule
      { response := f.response, heldSince := f.heldSince, clearList := (s.port p).notify.clearList, args := args }
      (s.closeFrame p) := by
  obtain ⟨he, ha, hl, hn⟩ := h
  have hs : ((s.closeFrame p).port p).state = .active := by simp [State.closeFrame, ha]
  have hp : (s.closeFrame p).phase = s.phase := rfl
  rw [State.frameEnd_ends he]
  unfold State.portLevel
  simp [hs, hp, hl, Nat.not_lt.mpr hn]

/-- A result stored on the closed frame's state is the port's state after the frame. -/
theorem State.setResult_closeFrame (s : State) (p : Port) (r : ResultCode) :
    (s.closeFrame p).setResult p r = s.setPort p ((s.port p).afterFrame r) := by
  simp [State.closeFrame, State.setResult, State.modPort, PortUnit.afterFrame]

/-! ### The configuration list -/

/-- A bound on the records that reaches the end of the bytes is no bound: one more changes nothing. -/
theorem walkFrom_fuel (staged : List Byte) (f pos : Nat) (h : staged.length ≤ f + pos) :
    walkFrom staged (f + 1) pos = walkFrom staged f pos := by
  induction f generalizing pos with
  | zero =>
    have : staged[pos]? = none := by simp; omega
    simp [walkFrom, this]
  | succ f ih =>
    have hr : ∀ n : Byte, walkFrom staged (f + 1) (pos + 6 + 5 * n.toNat) = walkFrom staged f (pos + 6 + 5 * n.toNat) :=
      fun n => ih _ (by omega)
    rw [walkFrom]
    conv => rhs; rw [walkFrom]
    simp only [hr]

/-! ### Reading the wires -/

/-- An engine with no work under way has released both lines. -/
theorem Engine.lines_still {e : Engine} (h : e.driving = false) (m : WireMoment) :
    e.mdaAt m = true ∧ e.mckAt m = true := by simp [Engine.mdaAt, Engine.mckAt, h]

/-- The lines of an engine at a point of a transaction under way. -/
theorem Engine.lines_transaction {e : Engine} {t : Transaction} {w : WireSlot} {rest : List WireSlot}
    (hr : e.recovery = none) (ht : e.transaction = some t) (ho : t.outcome = none) (hs : t.slots = w :: rest)
    (m : WireMoment) : e.mdaAt m = releasesMda m w ∧ e.mckAt m = releasesMck m w := by
  simp [Engine.mdaAt, Engine.mckAt, Engine.driving, Engine.point, hr, ht, ho, hs]

/-- The lines of an engine in a recovery under way. -/
theorem Engine.lines_recovery {e : Engine} {r : Recovery} (hr : e.recovery = some r) (ho : r.outcome = none)
    (m : WireMoment) :
    e.mdaAt m = (r.stage != .stopping || releasesMda m .stop)
      ∧ e.mckAt m = match r.stage with
        | .settling => true
        | .pulsing => releasesMck m .recvBit
        | .stopping => releasesMck m .stop := by
  cases hst : r.stage <;> cases m <;>
    simp [Engine.mdaAt, Engine.mckAt, Engine.driving, Engine.point, hr, ho, hst, releasesMda, releasesMck]

/-- No sample changes nothing. -/
@[simp] theorem Engine.feed_nil (e : Engine) : Engine.feed [] e = (e, []) := rfl

/-- An engine that drives the bus takes the first sample. -/
theorem Engine.feed_driving {e : Engine} (h : e.driving = true) (b : Bool) (bs : List Bool) :
    Engine.feed (b :: bs) e = Engine.feed bs (e.sample b) := by simp [Engine.feed, h]

/-- An engine that does not drive the bus takes no sample. -/
theorem Engine.feed_still {e : Engine} (h : e.driving = false) (bs : List Bool) : Engine.feed bs e = (e, bs) := by
  cases bs <;> simp [Engine.feed, h]

/-- Samples are taken in turn: those of a second list go to what the first list has left. -/
theorem Engine.feed_append (xs ys : List Bool) (e : Engine) :
    Engine.feed (xs ++ ys) e =
      if (Engine.feed xs e).2 = [] then Engine.feed ys (Engine.feed xs e).1
      else ((Engine.feed xs e).1, (Engine.feed xs e).2 ++ ys) := by
  induction xs generalizing e with
  | nil => simp
  | cons x xs ih =>
    by_cases h : e.driving = true
    · rw [List.cons_append, Engine.feed_driving h, Engine.feed_driving h, ih]
    · have h' : e.driving = false := by simpa using h
      rw [Engine.feed_still h', Engine.feed_still h']
      simp

/-- Reading with no sample changes nothing. -/
@[simp] theorem Engine.reads_nil (e : Engine) : e.reads [] = (e, []) := by simp [Engine.reads]

/-- The received bits of one byte, taken with the right sample each, add the byte. -/
theorem Transaction.shift_received (t : Transaction) (b : Bool) :
    (t.shift b).received = if t.shiftIn.length < 7 then t.received else t.received ++ [byteOfBits (t.shiftIn ++ [b])] := by
  unfold Transaction.shift; split <;> rfl

/-- A sample taken by a transaction past its START, on an engine in no recovery. -/
theorem Engine.sample_transaction {e : Engine} {t : Transaction} (hr : e.recovery = none) (ht : e.transaction = some t)
    {high : Bool} (hs : t.atStart = false ∨ high = true) :
    e.sample high = { e with transaction := some (t.sample high) } := by
  unfold Engine.sample
  rcases hs with hs | hs <;> simp [hr, ht, hs]

/-- An engine with a transaction under way drives the bus. -/
theorem Engine.driving_transaction {e : Engine} {t : Transaction} (hr : e.recovery = none)
    (ht : e.transaction = some t) (ho : t.outcome = none) : e.driving = true := by
  simp [Engine.driving, hr, ht, ho]

/-- One sample read by an engine whose transaction is under way past its START. -/
theorem Engine.feed_sample {e : Engine} {t : Transaction} (hr : e.recovery = none) (ht : e.transaction = some t)
    (ho : t.outcome = none) {high : Bool} (hs : t.atStart = false ∨ high = true) (more : List Bool) :
    Engine.feed (high :: more) e = Engine.feed more { e with transaction := some (t.sample high) } := by
  rw [Engine.feed_driving (Engine.driving_transaction hr ht ho), Engine.sample_transaction hr ht hs]

/-- A point that a bit sent passes: the transaction goes on to the next. -/
theorem Transaction.sample_sendBit {t : Transaction} {b : Bool} {rest : List WireSlot} (h : t.slots = .sendBit b :: rest) :
    t.sample b = { t with slots := rest } := by
  cases b <;> simp [Transaction.sample, h, reliesOnHigh]

/-- Bits sent and read back as sent are passed. -/
theorem Engine.feed_sendBits {e : Engine} (hr : e.recovery = none) (bs : List Bool) {t : Transaction}
    (ht : e.transaction = some t) (ho : t.outcome = none) {rest : List WireSlot}
    (hs : t.slots = bs.map .sendBit ++ rest) (more : List Bool) :
    Engine.feed (bs ++ more) e = Engine.feed more { e with transaction := some { t with slots := rest } } := by
  induction bs generalizing e t with
  | nil =>
    have : ({ e with transaction := some { t with slots := rest } } : Engine) = e := by
      obtain ⟨b, x, r, st, re, f, sp⟩ := e
      simp only at ht
      subst ht
      simp at hs
      simp [← hs]
    simp [this]
  | cons b bs ih =>
    have hs' : t.slots = .sendBit b :: (bs.map .sendBit ++ rest) := by simpa using hs
    rw [List.cons_append, Engine.feed_sample hr ht ho (.inl (by simp [Transaction.atStart, hs'])),
      Transaction.sample_sendBit hs']
    exact ih (e := { e with transaction := some { t with slots := bs.map .sendBit ++ rest } })
      (t := { t with slots := bs.map .sendBit ++ rest }) hr rfl ho rfl

/-- A byte sent and acknowledged is passed, and its progress made. -/
theorem Engine.feed_ackedByte {e : Engine} {t : Transaction} (hr : e.recovery = none) (ht : e.transaction = some t)
    (ho : t.outcome = none) {b : Byte} {what : Acked} {rest : List WireSlot} (hs : t.slots = sendByte b what ++ rest)
    (more : List Bool) :
    Engine.feed (ackedByte b ++ more) e
      = Engine.feed more { e with transaction := some { t.acked what with slots := rest } } := by
  have hs' : t.slots = (bitsOfByte b).map .sendBit ++ (.ack what :: rest) := by simpa [sendByte] using hs
  rw [ackedByte, List.append_assoc, Engine.feed_sendBits hr _ ht ho hs', List.singleton_append,
    Engine.feed_sample (e := { e with transaction := some { t with slots := .ack what :: rest } })
      (t := { t with slots := .ack what :: rest }) hr rfl ho (.inl (by simp [Transaction.atStart]))]
  cases what <;> simp [Transaction.sample, reliesOnHigh, Transaction.acked]

/-- A byte sent and refused leaves the STOP, with the status of the byte refused. -/
theorem Engine.feed_nackedByte {e : Engine} {t : Transaction} (hr : e.recovery = none) (ht : e.transaction = some t)
    (ho : t.outcome = none) {b : Byte} {what : Acked} {rest : List WireSlot} (hs : t.slots = sendByte b what ++ rest)
    (more : List Bool) :
    Engine.feed (nackedByte b ++ more) e
      = Engine.feed more { e with transaction := some { t with slots := [.stop], refusal := some (refusalOf what) } } := by
  have hs' : t.slots = (bitsOfByte b).map .sendBit ++ (.ack what :: rest) := by simpa [sendByte] using hs
  rw [nackedByte, List.append_assoc, Engine.feed_sendBits hr _ ht ho hs', List.singleton_append,
    Engine.feed_sample (e := { e with transaction := some { t with slots := .ack what :: rest } })
      (t := { t with slots := .ack what :: rest }) hr rfl ho (.inl (by simp [Transaction.atStart]))]
  simp [Transaction.sample, reliesOnHigh]

/-- A byte received is added to those received, whatever the level of the engine's own acknowledge bit. -/
theorem Engine.feed_receivedByte {e : Engine} {t : Transaction} (hr : e.recovery = none) (ht : e.transaction = some t)
    (ho : t.outcome = none) (hi : t.shiftIn = []) {b : Byte} {last own : Bool} {rest : List WireSlot}
    (hs : t.slots = receiveByte last ++ rest) (more : List Bool) :
    Engine.feed (bitsOfByte b ++ [own] ++ more) e
      = Engine.feed more { e with transaction := some { t with slots := rest, received := t.received ++ [b] } } := by
  have hb := byteOfBits_bitsOfByte b
  simp [bitsOfByte] at hb
  obtain ⟨bs, tr, rc, st, re, f, sp⟩ := e
  obtain ⟨q, a, ix, sh, n, d, ia, da, rv, sl, si, rf, oc⟩ := t
  simp only at hr ht ho hi hs
  subst hr ht ho hi hs
  simp [bitsOfByte, receiveByte, Engine.feed, Engine.driving, Engine.sample, Transaction.atStart, Transaction.sample,
    reliesOnHigh, Transaction.shift, List.replicate, hb]

end Sys2Proof.Machine
end

