-- ==== Sys2Proof/WellFormed.lean ====
section
/-! DEFINITION. Which commands are well formed. Ports, entries and slots are in range by their types; what is left to
check is that a frame with no whole byte has fewer than 8 bits (R128). -/

namespace Sys2Proof

/-- A command the outside can give. An ignored frame received fewer than 8 bits (R128); every other operand is in
range by its type. -/
def Instr.wellFormed : Instr → Bool
  | .ignoredFrame _ bits => decide (bits.length < 8)
  | _ => true

end Sys2Proof
end

