-- ==== Sys2Proof/Tests/Slice0.lean ====
section
/-! SUPPORT. The model's own tests: the smoke test of WellFormed, one small test of what each command does, and for each
obligation with hypotheses a state and operands that meet them, clause by clause. -/

namespace Sys2Proof.Tests

open Sys2Proof Sys2Proof.Machine

set_option Elab.async false

/-! ### Small states -/

/-- The state a command leaves. -/
def after (c : Instr) (s : State) : State :=
  match exec c s with
  | .next t => t
  | .fault _ => s
  | .refused _ => s

/-- What the engine reads: nothing. -/
def silent : BusRead := { samples := [], mckLow := false }

/-- An entry at an address, open to every port, with a window up to `last`. -/
def device (a : BitVec 7) (t : EntryType) (last : BitVec 16) : Entry :=
  { address := a, type := t, lockLevel := 3, windows := [{ first := 0, last := last, readSet := 15, writeSet := 15 }],
    nackCount := 0, owner := none, leaseValue := 0, leaseRemaining := 0, releaseReason := .initial, watchSet := 0 }

/-- E0, an INDEXED8 device. -/
def dev : Entry := device 0x20 .indexed8 255

/-- CONFIG with E0 INDEXED8 and E1 BYTE. -/
def config : State :=
  { State.reset with
    phase := .config, loader := Loader.initial.done .noFault,
    directory := ((Vector.replicate 32 none).set 0 (some dev)).set 1 (some (device 0x21 .byte 0)) }

/-- The same in RUN. -/
def run : State := { config with phase := .run }

/-- RUN with E0 changed. -/
def runWith (f : Entry → Entry) : State := run.setEntry 0 (some (f dev))

/-- A frame whose byte 0 is `b0` and whose response is `r`. -/
def frameOf (b0 : Byte) (r : Response) : Frame :=
  { statusByte := 0, bitsIn := bitsOfByte b0, lastResult := some .noCode, response := r, heldSince := false }

/-- `s` with that frame in progress on port `p`. -/
def framed (s : State) (p : Port) (b0 : Byte) (r : Response) : State :=
  s.modPort p fun u => { u with frame := .opened (frameOf b0 r) }

/-- `s` with command `c`'s frame in progress on port `p`. -/
def on (s : State) (p : Port) (c : Command) : State := framed s p (commandCode c) .absent

/-- The bits of bytes. -/
def bitsOf (bs : List Byte) : List Bool := bs.flatMap bitsOfByte

/-- `s` after command `c`'s whole frame on port `p`. -/
def ends (s : State) (p : Port) (c : Command) (args : List Byte) : State := after (frameEndOf c p (bitsOf args)) (on s p c)

/-- Command `c`'s frame on port `p` passes the port-level handling. -/
abbrev judged (s : State) (p : Port) (c : Command) (args : List Byte) : Prop :=
  (on s p c).frameJudged p (bitsOf args) (frameOf (commandCode c) .absent) c args

/-- A request of kind `k` on entry `e`. -/
def req (k : Kind) (tag : Byte) (e : Byte) (wait : Byte) : Request :=
  { tag := tag, kind := k, entry := e, waitLimit := wait, index := 0, length := 1, condition := 0, data := [0xA5],
    mask := 0xFF, matchByte := 7, count := 2, interval := 0, lease := 3 }

/-- `s` with `r` the only request of port `p`. -/
def queued (s : State) (p : Port) (r : Request) : State := s.modPort p fun u => { u with requests := [r] }

/-- A poll of port 0 on E0. -/
def poll0 : Poll :=
  { port := 0, tag := 9, entry := 0, index := 0, mask := 0xFF, matchByte := 7, condition := .untilEqual, count := 2,
    remaining := 2, interval := 5, waitLimit := 4, lastByte := none, nextDue := 0, blockTimer := none,
    cancelPending := false, state := .due }

/-- `s` with that poll, changed, in slot 0, and its credit. -/
def parked (s : State) (f : Poll → Poll) : State :=
  (s.setPoll 0 (some (f poll0))).modPort 0 fun u => { u with credits := 1 }

/-- RUN with port 0's READ of E0 granted. -/
def reading : State := after (.grant silent) (queued run 0 (req .read 1 0 0))

/-- The samples of a one-byte INDEXED8 read that every byte of is acknowledged, the byte being 7. -/
def readSamples : List Bool :=
  [true] ++ (bitsOfByte 0x40 ++ [false]) ++ (bitsOfByte 0 ++ [false]) ++ [true] ++ (bitsOfByte 0x41 ++ [false])
    ++ (bitsOfByte 7 ++ [true]) ++ [true]

/-- The samples of a transaction whose address is not acknowledged. -/
def nackSamples : List Bool := [true] ++ (bitsOfByte 0x40 ++ [true]) ++ [true]

/-- An engine with a recovery in progress. -/
def recovering (c : RecoveryCause) (st : BusState) : Engine :=
  { Engine.initial with busState := st, recovery := some (Recovery.fresh c) }

/-- A valid list: E0 INDEXED8 at 0x20 with one window, U0 and U1 enabled, not sealed. -/
def list1 : List Byte :=
  [0x46, 0x42, 0x01, 0x02, 0x01, 0x07, 0x00, 0x00, 0xE0, 0x00, 0x20, 0x01, 0x03, 0x01, 0x00, 0x00, 0x00, 0xFF, 0xFF,
   0xFF, 0x6B]

/-- LOADING with `staged` bytes staged before the read in progress. -/
def loading (staged : List Byte) : State :=
  { State.reset with
    loader := { Loader.initial with step := .reading, memAddress := some 0x54, staging := staged, walk := 8 },
    engine := Engine.initial.start (.fresh .loader .read 0x54 [0, 0] 16 []) }

/-- The loader's read in `s` ended with `st`, having received `bs`. -/
def loaderEnded (s : State) (bs : List Byte) (st : BusStatus) : State :=
  s.setEngine { s.engine with
    transaction := s.engine.transaction.map fun t => { t with received := bs, outcome := some st, slots := [] } }

/-- What holds of an option's value when a check of it passes. -/
theorem of_all {α : Type} {P : α → Prop} [DecidablePred P] {o : Option α} (h : (o.all fun x => decide (P x)) = true) :
    ∀ x, o = some x → P x := by
  intro x hx
  subst hx
  simpa using h

/-- A port whose frame is idle or discarded has none in progress. -/
theorem no_frame {u : PortUnit} (h : u.frame = .idle ∨ u.frame = .discarded) : ∀ f, u.frame ≠ .opened f := by
  intro f hf
  rw [hf] at h
  rcases h with h | h <;> cases h

/-! ### Well-formed commands -/

/-- An ignored frame with 8 bits is refused; with 7 it is taken. -/
theorem test_wellFormed :
    (Instr.ignoredFrame 0 (List.replicate 8 true)).wellFormed = false
      ∧ (Instr.ignoredFrame 0 (List.replicate 7 true)).wellFormed = true := by decide

/-- No word spells a command. -/
theorem test_noWord : decodeTableWord 8 0 = none ∧ run.withFetchWord 8 0 = run := by decide +kernel

/-! ### Start and time -/

theorem test_step : ({ run with pending := [.seal 0 [], .resetnFall] } : State).pending = .seal 0 [] :: [.resetnFall]
    ∧ run.pending = [] := by decide +kernel

theorem test_restart : judged run 0 .restart [] ∧ ((on run 0 .restart).port 0).level = 0
    ∧ judged config 3 .restart [] ∧ ((on config 3 .restart).port 3).level ≠ 0
    ∧ (ends run 0 .restart []).phase = .loading ∧ ((ends run 0 .restart []).port 2).resetCause = .restart
    ∧ ((ends (on run 1 .status) 0 .restart []).port 1).frame = .discarded := by decide +kernel

/-- A restart discards every frame in progress but that of the RESTART itself. -/
theorem test_restart_frames : ((on run 1 .status).port 1).frame = .opened (frameOf 0 .absent)
    ∧ ((after (.powerOn true) (on run 1 .status)).port 1).frame = .discarded
    ∧ ((after .resetnFall (on run 1 .status)).port 1).frame = .discarded
    ∧ ((ends (on run 1 .status) 0 .restart []).port 0).frame = .idle
    ∧ ((ends (on run 1 .status) 0 .restart []).port 2).frame = .idle
    ∧ (after .resetnFall (after .resetnFall (on run 1 .status))).resetn = false
    ∧ ((after .resetnFall (after .resetnFall (on run 1 .status))).port 1).frame = .discarded := by decide +kernel

theorem test_powerOn : run.resetn = true ∧ (after (.powerOn false) run).resetn = false ∧ ((after (.powerOn false) run).port 1).level = 3
    ∧ ((after .resetnFall run).port 0).resetCause = .pin ∧ (after .resetnFall run).entry 0 = none := by decide +kernel

theorem test_loaderStart : State.reset.phase = .loading ∧ State.reset.loader.step = .resetWait
    ∧ (after (.loaderStart true true silent) State.reset).loader.memAddress = some 0x57 := by decide +kernel

theorem test_tick : run.timeBase ≠ BitVec.allOnes 48 ∧ (after (.tick silent) run).timeBase = 1
    ∧ ((after (.tick silent) (runWith fun e => { e.lockTo 1 1 with leaseRemaining := 1 })).entry 0).map
        Entry.leaseRemaining = some 0 := by decide +kernel

/-! ### Frames -/

theorem test_frameOpen : (run.port 0).state ≠ .offline ∧ (∀ f, (run.port 0).frame ≠ .opened f)
    ∧ (State.reset.port 1).state ≠ .offline ∧ (∀ f, (State.reset.port 1).frame ≠ .opened f)
    ∧ ((ends (on run 1 .status) 0 .restart []).port 1).state ≠ .offline
    ∧ (∀ f, ((ends (on run 1 .status) 0 .restart []).port 1).frame ≠ .opened f) := by
  refine ⟨by decide +kernel, no_frame (.inl ?_), by decide +kernel, no_frame (.inl ?_), by decide +kernel,
    no_frame (.inr ?_)⟩ <;> decide +kernel

/-- A port HELD by itself in CONFIG reads 0x05 as its frame status. -/
theorem test_frameOpen_held : ((after (.frameOpen 2) (ends config 2 .hold [2])).port 2).frame
    = .opened { statusByte := 0x05, bitsIn := [], lastResult := none, response := .absent, heldSince := false } := by
  decide +kernel

/-- RUN with port 3 OFFLINE. -/
def offline3 : State := run.modPort 3 fun u => { u with state := .offline }

/-- Select that falls on an OFFLINE port opens no frame; after a restart the line is driven until select rises. -/
theorem test_frameOpen_offline : (offline3.port 3).state = .offline
    ∧ ((after (.frameOpen 3) offline3).port 3).frame = .ignored
    ∧ (after (.frameOpen 3) offline3).dataOut 3 0 0 = none
    ∧ ((after (.powerOn true) (after (.frameOpen 3) offline3)).dataOut 3 0 0).isSome = true
    ∧ (after (.ignoredFrame 3 []) (after (.powerOn true) (after (.frameOpen 3) offline3))).dataOut 3 0 0 = none := by
  decide +kernel

/-- The five responses in RUN, none for an unknown code, none in LOADING. -/
theorem test_snapshot : (((after (.frameOpen 0) run).port 0).frame = .opened (Frame.fresh 2))
    ∧ (Frame.fresh 2).lastResult = none
    ∧ (run.responseFor 0 (commandOfByte 0x11)) = .record none ∧ (run.responseFor 0 (commandOfByte 0x20)) = .flags 0
    ∧ (run.responseFor 0 (commandOfByte 0x23)) = .changed 0 ∧ (run.responseFor 0 (commandOfByte 0x13)) = .absent
    ∧ (run.responseFor 0 (commandOfByte 0x10)) = .absent ∧ (State.reset.responseFor 0 (commandOfByte 0x31)) = .absent
    ∧ ((after (.responseSnapshot 0 0x20) (after (.frameOpen 0) run)).port 0).notify.clearList = .flags 0 := by
  decide +kernel

theorem test_dataOut : (framed run 0 0x11 (.record none)).dataOut 0 0 0 = some 0
    ∧ (framed run 0 0x11 (.record none)).dataOut 0 0 1 = some 0xFF
    ∧ (framed run 0 0x11 (.record none)).dataOut 0 0 2 = some 0x00
    ∧ (framed run 0 0x31 (.directory run.directory)).dataOut 0 1 4 = some 0x21
    ∧ (framed run 0 0x31 (.directory run.directory)).dataOut 0 2 8 = some 0xFF
    ∧ run.dataOut 0 0 0 = none
    ∧ (run.modPort 0 fun u => { u with state := .offline }).dataOut 0 0 0 = none := by decide +kernel

/-- Bits go out most significant bit first: the frame status byte 0x05, then 0xFF of a discarded frame. -/
theorem test_dataOutBit :
    (List.range 8).map ((after (.frameOpen 2) (ends config 2 .hold [2])).dataOutBit 2 0)
      = [false, false, false, false, false, true, false, true].map some
    ∧ (ends (on run 1 .status) 0 .restart []).dataOutBit 1 0 9 = some true := by decide +kernel

/-- A completion record of a READ. -/
def record1 : Completion :=
  { tag := 1, kind := .read, entry := 0, status := .ok, lockLost := false, previousRelease := none, count := 1,
    data := [7] }

/-- A record's bytes, and a slot's. -/
theorem test_layouts :
    (Response.record (some { record1 with
      kind := .lock, entry := 2, status := .locked, lockLost := true, previousRelease := some .reset,
      count := 258, data := [9] })).bytes 0 = [9, 1, 6, 2, 6, 0x85, 1, 2, 9]
    ∧ (Response.directory (runWith fun e => { e.lockTo 1 200 with nackCount := 2, watchSet := 0b1001 }).directory).bytes 0
      = [0xE0, 0, 0x20, 1, 3, 1, 0, 0, 0, 0xFF, 0xFF, 1, 2, 1, 3, 0x20, 9]
    ∧ (Response.changed 0x80000001).bytes 0 = [1, 0, 0, 0x80] ∧ (Response.flags 0x202).bytes 0 = [2, 2] := by
  decide +kernel

theorem test_ignoredFrame : ((after (.frameOpen 0) run).port 0).frame = .opened (Frame.fresh 2)
    ∧ ((Frame.fresh 2).bitsIn ++ List.replicate 7 true).length < 8
    ∧ ((after (.ignoredFrame 0 (List.replicate 7 true)) (after (.frameOpen 0) run)).port 0).frame = .idle := by
  decide +kernel

/-- RUN restarted while port 1 had a frame in progress. -/
def cutShort : State := ends (on run 1 .status) 0 .restart []

/-- No frame end judges a frame that a restart discarded; with no frame none changes anything. -/
theorem test_discardedEnd : (cutShort.port 1).frame = .discarded
    ∧ (∀ i ∈ [Instr.seal 1 [true], .ignoredFrame 1 [], .unknownCommand 1 []],
        after i cutShort = cutShort.setPort 1 { cutShort.port 1 with frame := .idle })
    ∧ (run.port 1).frame = .idle ∧ after (.seal 1 []) run = run := by decide +kernel

theorem test_unknownCommand : (framed State.reset 0 0x13 .absent).frameEnds 0 [true] (frameOf 0x13 .absent) 0x13 []
    ∧ ((after (.unknownCommand 0 [true]) (framed State.reset 0 0x13 .absent)).port 0).lastResult = .badCommand := by
  decide +kernel

/-- The port-level handling refuses by state, by phase and by length. -/
theorem test_portLevel :
    ((on (ends run 0 .hold [1]) 1 .fetch).frameEnds 1 [] (frameOf 0x11 .absent) 0x11 []
        ∧ ((on (ends run 0 .hold [1]) 1 .fetch).port 1).state = .held
        ∧ ((ends (ends run 0 .hold [1]) 1 .fetch []).port 1).lastResult = .held)
    ∧ ((on State.reset 0 .seal).frameEnds 0 [] (frameOf 0x42 .absent) 0x42 []
        ∧ ((ends State.reset 0 .seal []).port 0).lastResult = .notReady)
    ∧ ((on run 0 .submit).frameEnds 0 (bitsOf [1, 2, 3, 4, 5, 6, 7]) (frameOf 0x10 .absent) 0x10 [1, 2, 3, 4, 5, 6, 7]
        ∧ ((ends run 0 .submit [1, 2, 3, 4, 5, 6, 7]).port 0).lastResult = .shortFrame
        ∧ ((ends run 0 .ackEvents [1]).port 0).lastResult = .shortFrame
        ∧ ((ends run 0 .watch []).port 0).lastResult = .shortFrame) := by decide +kernel

theorem test_phaseAndPrivilege : judged config 0 .fetch [] ∧ judged run 0 .seal [] ∧ judged config 1 .seal []
    ∧ (config.port 1).level ≠ 0 ∧ ((ends config 0 .fetch []).port 0).lastResult = .wrongPhase
    ∧ ((ends run 1 .seal []).port 1).lastResult = .wrongPhase
    ∧ ((ends config 1 .seal []).port 1).lastResult = .notPermitted := by decide +kernel

theorem test_statusAndDirRead : (on State.reset 1 .status).frameEnds 1 [] (frameOf 0 .absent) 0 []
    ∧ judged config 0 .dirRead [31] ∧ ((ends State.reset 1 .status []).port 1).lastResult = .done
    ∧ ((ends config 0 .dirRead [31]).port 0).lastResult = .done
    ∧ ((ends config 0 .dirRead [32]).port 0).lastResult = .noEntry := by decide +kernel

/-! ### Requests -/

/-- A READ of one byte at index 255 of E0, with tag 5. -/
def readBytes : List Byte := [5, 0x00, 0, 0, 0x00, 0xFF, 1, 0]

/-- SUBMIT's checks, one after the other: malformed, a full queue, a tag in use, the range, and DONE. -/
theorem test_submit : judged run 0 .submit readBytes
    ∧ decodeRequest [5, 0x0A, 0, 0, 0, 0, 1, 0] = none ∧ (decodeRequest readBytes).isSome = true
    ∧ ((ends run 0 .submit [5, 0x0A, 0, 0, 0, 0, 1, 0]).port 0).lastResult = .malformed
    ∧ ((ends (run.modPort 0 fun u => { u with requests := List.replicate 8 (req .recv 1 1 0) }) 0 .submit
        readBytes).port 0).lastResult = .queueFull
    ∧ ((ends (queued run 0 (req .read 5 0 0)) 0 .submit readBytes).port 0).lastResult = .dupTag
    ∧ ((ends run 0 .submit [5, 0x00, 0, 0, 0x00, 0xFF, 2, 0]).port 0).lastResult = .badRange
    ∧ ((ends run 0 .submit [5, 0x00, 2, 0, 0x00, 0x00, 2, 0]).port 0).lastResult = .noEntry
    ∧ ((ends run 0 .submit [5, 0x02, 0, 0, 0x00, 0x00, 2, 0, 1]).port 0).lastResult = .badKind
    ∧ ((ends run 0 .submit readBytes).port 0).lastResult = .done
    ∧ ((ends run 0 .submit readBytes).port 0).requests.map Request.tag = [5] := by decide +kernel

/-- On an entry locked by another port the head is fixed as LOCKED, or deferred, by its wait limit. -/
theorem test_submit_locked :
    ((ends (runWith fun e => e.lockTo 1 2) 0 .submit readBytes).port 0).lockedMark = true
    ∧ ((ends (runWith fun e => e.lockTo 1 2) 0 .submit [5, 0, 0, 1, 0, 0, 1, 0]).port 0).deferral = some 0 := by
  decide +kernel

/-- The well-formed step at its bounds. -/
theorem test_wellFormedRequest : (decodeRequest [1, 0x00, 0, 0, 0, 0, 16, 9]).isSome = true
    ∧ decodeRequest [1, 0x00, 0, 0, 0, 0, 17, 0] = none ∧ decodeRequest [1, 0x00, 0, 0, 0, 0, 0, 0] = none
    ∧ (decodeRequest [1, 0x01, 0, 0, 0, 0, 2, 0, 7, 8]).map Request.data = some [7, 8]
    ∧ decodeRequest [1, 0x01, 0, 0, 0, 0, 2, 0, 7] = none
    ∧ (decodeRequest [1, 0x04, 0, 0, 0, 0, 0, 1, 0xFF, 7, 0x10, 0x00, 3]).map Request.count = some 4096
    ∧ decodeRequest [1, 0x04, 0, 0, 0, 0, 0, 1, 0xFF, 7, 0x10, 0x01, 3] = none
    ∧ decodeRequest [1, 0x04, 0, 0, 0, 0, 0, 2, 0xFF, 7, 0x00, 0x01, 3] = none
    ∧ decodeRequest [1, 0x06, 0, 0, 0, 0, 0, 0, 0] = none
    ∧ (decodeRequest [1, 0x08, 0, 0, 0, 0, 0, 0, 255]).map Request.lease = some 255 := by decide +kernel

theorem test_accessCheck : entryOfByte (req .read 1 0 0).entry = some 0 ∧ run.entry 0 = some dev ∧ dev.valid = true
    ∧ 1 ≤ (req .read 1 0 0).length.toNat ∧ run.accessCheck 0 (req .read 1 0 0) = none
    ∧ run.accessCheck 0 (req .send 1 1 0) = none ∧ run.accessCheck 0 (req .recv 1 0 0) = some .badKind
    ∧ run.accessCheck 3 (req .lock 1 0 0) = none
    ∧ (runWith fun e => { e with lockLevel := 2 }).accessCheck 3 (req .brk 1 0 0) = some .denied
    ∧ run.accessCheck 0 { req .poll 1 0 0 with length := 0 } = none
    ∧ run.accessCheck 0 { req .send 1 1 0 with length := 0 } = none := by decide +kernel

/-- RUN with that record presented to a FETCH frame of port 0. -/
def fetching : State :=
  framed (run.modPort 0 fun u => { u with completions := [record1] }) 0 0x11 (.record (some record1))

theorem test_fetch : fetching.frameJudged 0 (bitsOf (List.replicate 10 0)) (frameOf 0x11 (.record (some record1))) .fetch
      (List.replicate 10 0)
    ∧ ((after (.fetch 0 (bitsOf (List.replicate 10 0))) fetching).port 0).completions = []
    ∧ ((after (.fetch 0 (bitsOf (List.replicate 9 0))) fetching).port 0).completions = [record1]
    ∧ ((after (.fetch 0 []) (framed run 0 0x11 (.record none))).port 0).lastResult = .empty
    ∧ ((after (.fetch 0 []) (framed run 0 0x11 .absent)).port 0).lastResult = .empty
    ∧ ((after (.fetch 1 []) (ends (framed run 1 0x11 (.record none)) 0 .hold [1])).port 1).lastResult = .held := by
  decide +kernel

/-- Two requests of port 0, the first deferred on an entry that port 1 has locked. -/
def twoQueued (w : Byte) : State :=
  (runWith fun e => e.lockTo 1 2).modPort 0 fun u =>
    { u with requests := [req .read 1 0 9, req .read 2 0 w], deferral := some 4 }

/-- A cancel behind the head leaves its timer; a cancel of the head has the next one judged; a SUBMIT behind it too. -/
theorem test_cancel_head : judged (twoQueued 0) 0 .cancel [2] ∧ judged (twoQueued 0) 0 .cancel [1]
    ∧ ((ends (twoQueued 0) 0 .cancel [2]).port 0).deferral = some 4
    ∧ ((ends (twoQueued 0) 0 .cancel [1]).port 0).lockedMark = true
    ∧ ((ends (twoQueued 0) 0 .cancel [1]).port 0).deferral = none
    ∧ ((ends (twoQueued 3) 0 .cancel [1]).port 0).deferral = some 0
    ∧ ((ends (twoQueued 0) 0 .submit readBytes).port 0).deferral = some 4 := by decide +kernel

/-- CANCEL in the queue, of a parked poll, of a RUNNING one, on the bus, and of an unknown tag. -/
theorem test_cancel : judged (queued run 0 (req .read 1 0 0)) 0 .cancel [1]
    ∧ ((ends (queued run 0 (req .read 1 0 0)) 0 .cancel [1]).port 0).requests = []
    ∧ ((ends (parked run id) 0 .cancel [9]).port 0).completions.map Completion.status = [.aborted]
    ∧ (ends (parked run id) 0 .cancel [9]).poll 0 = none
    ∧ ((ends (parked run fun q => { q with state := .running }) 0 .cancel [9]).poll 0).map Poll.cancelPending = some true
    ∧ ((ends reading 0 .cancel [1]).port 0).lastResult = .inFlight
    ∧ ((ends reading 0 .cancel [2]).port 0).lastResult = .notFound
    ∧ ((ends (reading.setCurrent (reading.scheduler.current.map fun c => { c with discard := true })) 0 .cancel [1]).port
      0).lastResult = .notFound := by decide +kernel

/-- The slots of `parked` hold one poll, so the clause of CANCEL over them is met. -/
theorem test_cancel_clause : (∀ x ∈ ((parked run id).port 0).requests, x.tag ≠ 9) ∧ (parked run id).poll 0 = some poll0
    ∧ (∀ k : SlotNo, k ≠ 0 → (parked run id).poll k = none) ∧ (∀ k, reading.poll k = none)
    ∧ (reading.scheduler.current.any fun c => c.slot.isNone && c.port = 0 && c.tag = 1 && !c.discard) = true
    ∧ run.scheduler.current = none := by decide +kernel

/-! ### Events and change notices -/

/-- RUN with CHANGE and PEER set in port 0 and CHANGE on its clear list. -/
def flagged : State :=
  run.modPort 0 fun u => { u with notify := { u.notify with flags := 0b1000000010, clearList := .flags 0b10 } }

theorem test_events : judged flagged 0 .events [0, 0, 0]
    ∧ ((ends flagged 0 .events [0, 0, 0]).port 0).notify.flags = 0b1000000000
    ∧ ((ends flagged 0 .events [0, 0]).port 0).notify.flags = 0b1000000010
    ∧ ((ends flagged 0 .events [0, 0]).port 0).notify.clearList = .absent := by decide +kernel

/-- RUN with E0 and E2 in port 0's Changed Set and E2 on its clear list. -/
def changed : State :=
  run.modPort 0 fun u => { u with notify := { u.notify with changed := 0b101, clearList := .entries 0b100 } }

theorem test_changes : judged changed 0 .changes [0, 0, 0, 0, 0]
    ∧ ((ends changed 0 .changes [0, 0, 0, 0, 0]).port 0).notify.changed = 0b001
    ∧ ((ends changed 0 .changes [0, 0, 0, 0]).port 0).notify.changed = 0b101 := by decide +kernel

theorem test_ackAndMask : judged flagged 0 .ackEvents [0x03, 0xFE] ∧ judged flagged 0 .setMask [0x03, 0xFE]
    ∧ ((ends flagged 0 .ackEvents [0x03, 0xFE]).port 0).notify.flags = 0
    ∧ ((ends flagged 0 .ackEvents [0x01, 0x01]).port 0).notify.flags = 0b1000000010
    ∧ ((ends flagged 0 .setMask [0x03, 0xFE]).port 0).notify.mask = 0b1000000011 := by decide +kernel

theorem test_watch : judged run 2 .watch [0] ∧ judged config 2 .unwatch [31]
    ∧ ((ends run 2 .watch [0]).entry 0).map Entry.watchSet = some 0b0100
    ∧ ((ends run 2 .watch [32]).port 2).lastResult = .noEntry ∧ ((ends run 2 .watch [31]).port 2).lastResult = .noEntry
    ∧ ((ends (runWith fun e => { e with windows := [] }) 2 .watch [0]).port 2).lastResult = .denied
    ∧ ((ends config 2 .watch [0]).port 2).lastResult = .wrongPhase
    ∧ ((ends (ends run 2 .watch [0]) 2 .unwatch [0]).entry 0).map Entry.watchSet = some 0
    ∧ ((ends run 2 .unwatch [31]).port 2).lastResult = .noEntry := by decide +kernel

/-- A write notice tells the watcher and not the writer; the watcher's line is asserted. -/
theorem test_writeNotice : (runWith fun e => { e with watchSet := 0b0011 }).entry 0 = some { dev with watchSet := 0b0011 }
    ∧ (((runWith fun e => { e with watchSet := 0b0011 }).writeNotice 0 0).port 1).notify.changed = 1
    ∧ (((runWith fun e => { e with watchSet := 0b0011 }).writeNotice 0 0).port 0).notify.changed = 0
    ∧ ((ends (runWith fun e => { e with watchSet := 0b0011 }) 1 .setMask [0x02, 0]).writeNotice 0 0).notifyAsserted 1
      = true := by decide +kernel

/-- CHANGE and E0 leave a watcher's clear list, each its own kind of list, and the rest of the list stays. -/
theorem test_writeNotice_clearList :
    ((((runWith fun e => { e with watchSet := 2 }).modPort 1 fun u =>
        { u with notify := { u.notify with clearList := .flags 0b110 } }).writeNotice 0 0).port 1).notify.clearList
      = .flags 0b100
    ∧ ((((runWith fun e => { e with watchSet := 2 }).modPort 1 fun u =>
        { u with notify := { u.notify with clearList := .entries 0b11 } }).writeNotice 0 0).port 1).notify.clearList
      = .entries 0b10 := by decide +kernel

/-! ### The directory's commands -/

theorem test_renew : judged (runWith fun e => { e.lockTo 0 2 with leaseRemaining := 1 }) 0 .renew [0]
    ∧ ((ends (runWith fun e => { e.lockTo 0 2 with leaseRemaining := 1 }) 0 .renew [0]).entry 0).map Entry.leaseRemaining
      = some 8
    ∧ ((ends run 0 .renew [0]).port 0).lastResult = .notOwner
    ∧ ((ends run 0 .renew [32]).port 0).lastResult = .notOwner := by decide +kernel

/-- The entry record of an INDEXED16 device at 0x77. -/
def newRecord : List Byte := [0xE0, 31, 0x77, 2, 1, 1, 0x00, 0x01, 0xFF, 0xFF, 0x21]

/-- DIR_WRITE fills a slot; a conflict, a bad count, a bad marker, and short frames are refused. -/
theorem test_dirWrite : judged config 0 .dirWrite newRecord ∧ (config.port 0).level = 0
    ∧ (parseRecord newRecord).map (fun r => r.toEntry.recordBytes 31) = some newRecord
    ∧ (parseRecord newRecord).any RawRecord.valid = true ∧ ((parseRecord newRecord).any fun r => r.toEntry.valid) = true
    ∧ ((ends config 0 .dirWrite newRecord).entry 31).map Entry.address = some 0x77
    ∧ ((ends config 0 .dirWrite (newRecord.set 2 0x20)).port 0).lastResult = .dirConflict
    ∧ ((ends config 0 .dirWrite (newRecord.take 5)).port 0).lastResult = .shortFrame
    ∧ ((ends config 0 .dirWrite (newRecord.take 10)).port 0).lastResult = .shortFrame
    ∧ ((ends config 0 .dirWrite (newRecord.set 5 5)).port 0).lastResult = .malformed
    ∧ ((ends config 0 .dirWrite (newRecord.set 0 0)).port 0).lastResult = .malformed
    ∧ ((ends config 0 .dirWrite (newRecord.set 1 32)).port 0).lastResult = .malformed := by decide +kernel

/-- Each condition of R8 that a record can fail. -/
theorem test_dirWrite_invalid : [(2, 0x07), (2, 0x78), (3, 3), (4, 4), (6, 0xFF), (3, 0), (3, 1)].all
    (fun x => ((ends config 0 .dirWrite (newRecord.set x.1 (if x = (6, 0xFF) then 0 else x.2))).port 0).lastResult
      = (if x = (6, 0xFF) then .done else .malformed)) = true
    ∧ ((ends config 0 .dirWrite [0xE0, 31, 0x77, 2, 1, 1, 0x00, 0x02, 0x00, 0x01, 0x21]).port 0).lastResult = .malformed
    ∧ ((ends config 0 .dirWrite [0xE0, 31, 0x77, 2, 1, 2, 0, 0, 0, 5, 0, 0, 5, 0, 9, 0]).port 0).lastResult
      = .malformed := by decide +kernel

theorem test_dirClear : judged config 0 .dirClear [0] ∧ judged run 0 .dirClear [0] ∧ judged config 1 .dirClear [0]
    ∧ (ends config 0 .dirClear [0]).entry 0 = none ∧ ((ends config 0 .dirClear [32]).port 0).lastResult = .noEntry
    ∧ ((ends run 0 .dirClear [0]).port 0).lastResult = .wrongPhase := by decide +kernel

theorem test_seal : judged config 0 .seal [] ∧ (ends config 0 .seal []).phase = .run := by decide +kernel

/-! ### HOLD and RELEASE -/

theorem test_hold_refusals : judged run 0 .hold [4] ∧ judged run 1 .hold [0] ∧ (run.port 1).level ≠ 0
    ∧ ((ends run 0 .hold [4]).port 0).lastResult = .badPort ∧ ((ends run 1 .hold [0]).port 1).lastResult = .notPermitted
    ∧ ((ends (run.modPort 3 fun u => { u with state := .offline }) 0 .hold [3]).port 0).lastResult = .badPort
    ∧ ((ends (ends run 0 .hold [1]) 0 .hold [1]).port 0).lastResult = .done
    ∧ ((ends (ends run 0 .hold [1]) 0 .hold [1]).port 2).notify.flags = 0b1000000000 := by decide +kernel

/-- RUN with E0 locked and watched by port 1. -/
def lockedBy1 : State := runWith fun e => { e.lockTo 1 2 with watchSet := 0b0010 }

/-- A HOLD of a lock owner gives the lock to the port that waits for it. -/
def heirWaits : State := lockedBy1.modPort 2 fun u => { u with requests := [req .lock 4 0 9], deferral := some 3 }

theorem test_hold : judged heirWaits 0 .hold [1] ∧ (heirWaits.port 1).state = .active ∧ (heirWaits.port 0).level = 0
    ∧ ((ends heirWaits 0 .hold [1]).entry 0).map Entry.owner = some (some 2)
    ∧ ((ends heirWaits 0 .hold [1]).entry 0).map Entry.watchSet = some 0
    ∧ ((ends heirWaits 0 .hold [1]).port 2).completions.map Completion.previousRelease = [some .reset]
    ∧ ((ends heirWaits 0 .hold [1]).port 1).origin = some (.port 0)
    ∧ judged run 3 .hold [3] ∧ ((ends run 3 .hold [3]).port 3).origin = some .self := by decide +kernel

/-- The waiting LOCK of port 2 is E0's heir, and the entry without it has none. -/
theorem test_heir : heirWaits.heir 0 2 (req .lock 4 0 9) [] ∧ ∀ q r rest d, ¬ lockedBy1.waitsFor 0 q r rest d := by
  refine ⟨State.heir_of_lockWaiter (d := 3) (by decide +kernel) (by decide +kernel) ?_, fun q =>
    State.lockWaiter_eq_none.mp (by revert q; decide +kernel)⟩
  intro q' d' h
  by_cases hq : q' = 2
  · subst hq
    rw [show heirWaits.lockWaiter 0 2 = some 3 by decide +kernel] at h
    cases h
    exact .inr ⟨rfl, le_refl _⟩
  · rw [(by decide +kernel : ∀ q : Port, q ≠ 2 → heirWaits.lockWaiter 0 q = none) q' hq] at h
    cases h

/-- The hand-over of a HOLD: the heir's lease and queue, PEER, and the target's frame marked or not. -/
theorem test_hold_handOver : ((ends heirWaits 0 .hold [1]).entry 0).map Entry.leaseRemaining = some 12
    ∧ ((ends heirWaits 0 .hold [1]).port 2).requests = [] ∧ ((ends heirWaits 0 .hold [1]).port 2).deferral = none
    ∧ ((ends heirWaits 0 .hold [1]).port 2).notify.flags = 0b1000000000
    ∧ ((ends (on run 1 .fetch) 0 .hold [1]).port 1).frame = .opened { frameOf 0x11 .absent with heldSince := true }
    ∧ ((ends (after (.frameOpen 1) run) 0 .hold [1]).port 1).frame = .opened (Frame.fresh 2)
    ∧ ((ends (lockedBy1.modPort 2 fun u => { u with requests := [req .lock 4 0 9], deferral := some 3, credits := 8 })
        0 .hold [1]).entry 0).map Entry.owner = some none := by decide +kernel

theorem test_release : (on (ends run 3 .hold [3]) 3 .release).frameEnds 3 (bitsOf [3]) (frameOf 0x51 .absent) 0x51 [3]
    ∧ ((ends run 3 .hold [3]).port 3).state = .held
    ∧ ((ends (ends run 3 .hold [3]) 3 .release [3]).port 3).state = .active
    ∧ ((ends (ends run 0 .hold [3]) 3 .release [3]).port 3).lastResult = .notPermitted
    ∧ ((ends run 0 .release [3]).port 0).lastResult = .done ∧ ((ends run 0 .release [4]).port 0).lastResult = .badPort
    ∧ ((ends (run.modPort 3 fun u => { u with state := .offline }) 0 .release [3]).port 0).lastResult = .badPort := by
  decide +kernel

/-! ### Heads that need no bus -/

/-- Judging: a head starts its timer, a head with wait limit 0 is fixed as LOCKED, a DUE slot goes BLOCKED, a BLOCKED one
goes DUE when the lock is gone, a slot on an ABSENT entry ends. -/
theorem test_settle :
    (((queued lockedBy1 2 (req .read 1 0 7)).settle []).port 2).deferral = some 0
    ∧ (((queued lockedBy1 2 (req .read 1 0 0)).settle []).port 2).lockedMark = true
    ∧ (((parked lockedBy1 id).settle []).poll 0).map Poll.state = some .blocked
    ∧ ((parked lockedBy1 fun q => { q with waitLimit := 0 }).settle []).poll 0 = none
    ∧ (((parked run fun q => { q with state := .blocked }).settle []).poll 0).map Poll.state = some .due
    ∧ ((parked (runWith fun e => { e with nackCount := 3 }) id).settle []).poll 0 = none
    ∧ (((parked (runWith fun e => { e with nackCount := 3 }) id).settle []).port 0).completions.map Completion.status
      = [.noDevice]
    ∧ (queued lockedBy1 2 (req .read 1 0 7)).headBlocked 2 = true ∧ (parked lockedBy1 id).pollLocked poll0 = true
    ∧ (parked run id).pollLocked poll0 = false ∧ (parked run id).pollAbsent poll0 = false := by decide +kernel

/-- What a slot ends with: NO_DEVICE before BUS_FAULT before LOCKED. -/
theorem test_pollEnds :
    ((parked (runWith fun e => { e.lockTo 1 2 with nackCount := 3 }) fun q => { q with waitLimit := 0 }).setEngine
      { Engine.initial with busState := .faulted }).pollEnds = [(0, recordOfPoll poll0 .noDevice)]
    ∧ ((parked lockedBy1 fun q => { q with waitLimit := 0 }).setEngine
      { Engine.initial with busState := .faulted }).pollEnds = [(0, recordOfPoll poll0 .busFault)]
    ∧ (parked lockedBy1 fun q => { q with waitLimit := 0 }).pollEnds = [(0, recordOfPoll poll0 .locked)]
    ∧ (parked lockedBy1 id).pollEnds = [] := by decide +kernel

theorem test_fenceHead : (queued run 0 (req .fence 1 0 0)).headReady 0 (req .fence 1 0 0) []
    ∧ (∀ k, (queued run 0 (req .fence 1 0 0)).poll k = none)
    ∧ ((after (.fenceHead 0) (queued run 0 (req .fence 1 0 0))).port 0).completions.map Completion.status = [.ok]
    ∧ (after (.fenceHead 0) (queued (parked run id) 0 (req .fence 1 0 0))) = queued (parked run id) 0 (req .fence 1 0 0) := by
  decide +kernel

/-- A head without a credit, or of a held port, is taken by no command. -/
theorem test_not_ready : (∀ i ∈ [Instr.fenceHead 0, .pollParking 0, .lockHead 0, .unlockHead 0, .breakHead 0,
      .endWithoutBus 0], ∀ k ∈ [Kind.fence, .poll, .lock, .unlock, .brk, .read],
    after i ((queued run 0 (req k 1 0 0)).modPort 0 fun u => { u with credits := 8 })
      = (queued run 0 (req k 1 0 0)).modPort 0 fun u => { u with credits := 8 })
    ∧ (queued run 0 (req .read 1 0 0)).headState 0 = some .queued
    ∧ (queued lockedBy1 0 (req .read 1 0 9)).headState 0 = some .deferred
    ∧ ((queued run 0 (req .read 1 0 0)).modPort 0 fun u => { u with credits := 8 }).headState 0 = some .creditWait
    ∧ run.headState 0 = none
    ∧ after (.endWithoutBus 0) (queued run 0 (req .read 1 0 0)) = queued run 0 (req .read 1 0 0)
    ∧ after (.pollParking 0) ((queued run 0 (req .poll 1 0 0)).mapPolls fun _ => some { poll0 with port := 1 })
      = ((queued run 0 (req .poll 1 0 0)).mapPolls fun _ => some { poll0 with port := 1 }) := by decide +kernel

theorem test_pollParking : (queued (parked run id) 0 (req .poll 1 0 0)).headReady 0 (req .poll 1 0 0) []
    ∧ (queued (parked run id) 0 (req .poll 1 0 0)).parked 0 < 3
    ∧ (queued (parked run id) 0 (req .poll 1 0 0)).poll 1 = none
    ∧ (∀ j : SlotNo, j.val < (1 : SlotNo).val → (queued (parked run id) 0 (req .poll 1 0 0)).poll j ≠ none)
    ∧ ((after (.pollParking 0) (queued (parked run id) 0 (req .poll 1 0 0))).poll 1).map Poll.remaining = some 2
    ∧ ((after (.pollParking 0) (queued (parked run id) 0 (req .poll 1 0 0))).port 0).credits = 2 := by decide +kernel

theorem test_lockHead : (queued run 0 (req .lock 1 0 0)).headReady 0 (req .lock 1 0 0) []
    ∧ ((after (.lockHead 0) (queued run 0 (req .lock 1 0 0))).entry 0).map Entry.leaseRemaining = some 12
    ∧ ((after (.lockHead 0) (queued run 0 (req .lock 1 0 0))).port 0).completions.map Completion.previousRelease
      = [some .initial]
    ∧ ((after (.lockHead 1) (queued lockedBy1 1 (req .lock 1 0 0))).port 1).completions.map Completion.previousRelease
      = [some .alreadyOwned]
    ∧ ((after (.lockHead 0) (queued lockedBy1 0 (req .lock 1 0 0))).port 0).lockedMark = true
    ∧ ((after (.lockHead 0) (queued lockedBy1 0 (req .lock 1 0 9))).port 0).deferral = some 0
    ∧ after (.lockHead 2) heirWaits = heirWaits
    ∧ ((after (.lockHead 0) ((queued lockedBy1 0 (req .lock 1 0 0)).modPort 0 fun u => { u with credits := 8 })).port
      0).lockedMark = true := by decide +kernel

/-- An UNLOCK hands the lock to the longest waiter, frees the entry without one, and ends NOT_HELD for another port. -/
theorem test_unlockHead : (queued heirWaits 1 (req .unlock 1 0 0)).headReady 1 (req .unlock 1 0 0) []
    ∧ (queued heirWaits 1 (req .unlock 1 0 0)).lockWaiter 0 2 = some 3
    ∧ (∀ q, q ≠ 2 → (queued heirWaits 1 (req .unlock 1 0 0)).lockWaiter 0 q = none)
    ∧ (∀ q, (queued lockedBy1 1 (req .unlock 1 0 0)).lockWaiter 0 q = none)
    ∧ ((after (.unlockHead 1) (queued heirWaits 1 (req .unlock 1 0 0))).entry 0).map Entry.owner = some (some 2)
    ∧ ((after (.unlockHead 1) (queued lockedBy1 1 (req .unlock 1 0 0))).entry 0).map Entry.releaseReason = some .normal
    ∧ ((after (.unlockHead 0) (queued lockedBy1 0 (req .unlock 1 0 0))).port 0).completions.map Completion.status
      = [.notHeld] := by decide +kernel

/-- A BREAK takes the lock of an outranked port, and marks its transaction; it does not outrank its own level. -/
theorem test_breakHead : (queued lockedBy1 0 (req .brk 1 0 0)).headReady 0 (req .brk 1 0 0) []
    ∧ (lockedBy1.port 0).level < (lockedBy1.port 1).level ∧ (lockedBy1.port 1).level ≤ (lockedBy1.port 2).level
    ∧ ((after (.breakHead 0) (queued lockedBy1 0 (req .brk 1 0 0))).entry 0).map Entry.owner = some (some 0)
    ∧ ((after (.breakHead 0) (queued lockedBy1 0 (req .brk 1 0 0))).port 1).notify.flags = 0b0000000100
    ∧ ((after (.breakHead 2) (queued lockedBy1 2 (req .brk 1 0 0))).port 2).completions.map Completion.status
      = [.outranked]
    ∧ ((after (.breakHead 0) (queued run 0 (req .brk 1 0 0))).entry 0).map Entry.owner = some none
    ∧ ((after (.breakHead 1) (queued lockedBy1 1 (req .brk 1 0 0))).port 1).completions.map Completion.previousRelease
      = [some .alreadyOwned] := by decide +kernel

/-- A bus that is FAULTED. -/
def faulted : Engine := { Engine.initial with busState := .faulted, retry := some 100, fault := true }

theorem test_endWithoutBus :
    ((after (.endWithoutBus 0) ((queued lockedBy1 0 (req .read 1 0 0)).judgeHead 0)).port 0).completions.map
      Completion.status = [.locked]
    ∧ ((after (.endWithoutBus 0) (queued (runWith fun e => { e with nackCount := 3 }) 0 (req .read 1 0 0))).port
      0).completions.map Completion.status = [.noDevice]
    ∧ ((after (.endWithoutBus 0) ((queued run 0 (req .probe 1 0 0)).setEngine faulted)).port 0).completions.map
      Completion.status = [.busFault]
    ∧ ((queued run 0 (req .probe 1 0 0)).setEngine faulted).headBlocked 0 = false
    ∧ (((queued lockedBy1 0 (req .read 1 0 0)).judgeHead 0).port 0).lockedMark = true := by decide +kernel

/-! ### Grants -/

theorem test_grant_port : (queued run 0 (req .read 1 0 0)).headReady 0 (req .read 1 0 0) []
    ∧ (queued run 0 (req .read 1 0 0)).headBlocked 0 = false
    ∧ (∀ pos ∈ (turnOrder (queued run 0 (req .read 1 0 0)).scheduler.turn).takeWhile (fun q => q ≠ .port 0),
        (queued run 0 (req .read 1 0 0)).hasCandidate pos = false)
    ∧ reading.engine.busState = .busy ∧ reading.scheduler.turn = .port 0
    ∧ reading.scheduler.current.map Current.tag = some 1 ∧ (reading.port 0).credits = 1
    ∧ (reading.engine.transaction.map fun t => clockPulses t.slots) = some 36 := by decide +kernel

theorem test_grant_poll : (parked run id).poll 0 = some poll0
    ∧ (∀ j : SlotNo, j ≠ 0 → (parked run id).slotMayRun j = none) ∧ (parked run id).slotMayRun 0 = some poll0
    ∧ (∀ pos ∈ (turnOrder (parked run id).scheduler.turn).takeWhile (fun t => t ≠ .poll),
        (parked run id).hasCandidate pos = false)
    ∧ ((after (.grant silent) (parked run id)).poll 0).map Poll.state = some .running
    ∧ (after (.grant silent) (parked run id)).engine.busState = .busy
    ∧ ((after (.grant silent) (parked run id)).port 0).credits = 1 := by decide +kernel

/-- No lock holds back the head that is granted; the poll of the slot is the one candidate at P. -/
theorem test_candidates : ¬ (queued run 0 (req .read 1 0 0)).heldBack 0 (req .read 1 0 0)
    ∧ (parked run id).slotIsCandidate 0 poll0 ∧ ∀ j q', j ≠ 0 → ¬ (parked run id).slotIsCandidate j q' := by
  refine ⟨?_, State.slotMayRun_eq_some.mp (by decide +kernel), fun j q' hj hc => ?_⟩
  · rw [← State.headBlocked_iff (rest := []) (by decide +kernel)]
    decide +kernel
  · rw [← State.slotMayRun_eq_some, (by decide +kernel : ∀ j : SlotNo, j ≠ 0 → (parked run id).slotMayRun j = none) j hj]
      at hc
    cases hc

/-- A DEFERRED head, a BLOCKED slot's poll, an engine that is not READY, a phase that is not RUN: nothing is granted. -/
theorem test_grant_none : after (.grant silent) (queued lockedBy1 0 (req .read 1 0 9)) = queued lockedBy1 0 (req .read 1 0 9)
    ∧ after (.grant silent) (parked lockedBy1 id) = parked lockedBy1 id
    ∧ after (.grant silent) (queued reading 0 (req .read 2 0 0)) = queued reading 0 (req .read 2 0 0)
    ∧ after (.grant silent) ((queued run 0 (req .probe 1 0 0)).setEngine faulted)
      = (queued run 0 (req .probe 1 0 0)).setEngine faulted
    ∧ after (.grant silent) config = config := by decide +kernel

/-- The search goes on upwards from the pointer and wraps after P. -/
theorem test_turnOrder : turnOrder (.port 1) = [.port 2, .port 3, .poll, .port 0, .port 1]
    ∧ ((queued (queued run 0 (req .read 1 0 0)) 2 (req .read 1 0 0)).setTurn (.port 1)).grantChoice = some (.port 2)
    ∧ ((queued (queued run 0 (req .read 1 0 0)) 2 (req .read 1 0 0)).setTurn (.port 3)).grantChoice = some (.port 0) := by
  decide +kernel

/-- The grant goes to port 0 while the Poll Table, where the pointer rests, has a candidate too. -/
theorem test_arbiter : (queued (parked run id) 0 (req .read 1 0 0)).grantChoice = some (.port 0)
    ∧ (queued (parked run id) 0 (req .read 1 0 0)).hasCandidate .poll = true ∧ Position.port 0 ≠ Position.poll
    ∧ (after (.grant silent) (queued (parked run id) 0 (req .read 1 0 0))).scheduler.turn = .port 0 := by
  decide +kernel

/-! ### The management bus -/

/-- The engine after the samples of a read: one sample short it drives on, with the last its outcome is OK. -/
theorem test_wire : (reading.engine.reads readSamples).1.transaction.map Transaction.outcome = some (some .ok)
    ∧ (reading.engine.reads readSamples).1.transaction.map Transaction.received = some [7]
    ∧ (reading.engine.reads (readSamples.take 38)).1.driving = true
    ∧ (reading.engine.reads nackSamples).1.transaction.map Transaction.outcome = some (some .nackAddr)
    ∧ (reading.engine.reads [false]).1.recovery = some (Recovery.fresh .blockedStart)
    ∧ (reading.engine.reads [true, false, false]).1.transaction.map Transaction.outcome = some (some .stuck) := by
  decide +kernel

/-- While it waits for MCK the engine holds MDA low at a STOP, and after the sample at a START. -/
theorem test_mda : reading.engine.mdaAt .rising = true ∧ reading.engine.mdaAt .high = false
    ∧ ((reading.engine.reads (readSamples.take 38)).1.point = some .stop)
    ∧ (reading.engine.reads (readSamples.take 38)).1.mdaReleased = false
    ∧ (reading.engine.reads (readSamples.take 38)).1.mdaAt .sampled = true
    ∧ (reading.engine.reads readSamples).1.mdaReleased = true
    ∧ ((recovering .retry .recovering).reads [true]).1.mdaReleased = false := by decide +kernel

/-- The moments of a point in order. -/
def moments : List WireMoment := [.low, .rising, .sampled, .high, .ended]

/-- MCK and MDA at the moments of a START, the first address bit, the repeated START, the STOP, and after it. -/
theorem test_lines : moments.map reading.engine.mckAt = [true, true, true, true, false]
    ∧ moments.map reading.engine.mdaAt = [true, true, true, false, false]
    ∧ moments.map (reading.engine.reads [true]).1.mckAt = [false, true, true, true, false]
    ∧ moments.map (reading.engine.reads [true]).1.mdaAt = [false, false, false, false, false]
    ∧ (reading.engine.reads (readSamples.take 19)).1.point = some .repStart
    ∧ moments.map (reading.engine.reads (readSamples.take 19)).1.mckAt = [false, true, true, true, false]
    ∧ moments.map (reading.engine.reads (readSamples.take 19)).1.mdaAt = [true, true, true, false, false]
    ∧ moments.map (reading.engine.reads (readSamples.take 38)).1.mckAt = [false, true, true, true, true]
    ∧ moments.map (reading.engine.reads (readSamples.take 38)).1.mdaAt = [false, false, true, true, true]
    ∧ moments.map (reading.engine.reads readSamples).1.mckAt = List.replicate 5 true
    ∧ moments.map (reading.engine.reads readSamples).1.mdaAt = List.replicate 5 true := by decide +kernel

/-- The lines in a recovery: both released at first, then a pulse with MDA released, then the STOP. -/
theorem test_lines_recovery : moments.map (recovering .retry .recovering).mckAt = List.replicate 5 true
    ∧ moments.map ((recovering .retry .recovering).reads [false]).1.mckAt = [false, true, true, true, false]
    ∧ moments.map ((recovering .retry .recovering).reads [false]).1.mdaAt = List.replicate 5 true
    ∧ moments.map ((recovering .retry .recovering).reads [false, true]).1.mckAt = [false, true, true, true, true]
    ∧ moments.map ((recovering .retry .recovering).reads [false, true]).1.mdaAt = [false, false, true, true, true] := by
  decide +kernel

theorem test_relayHealth : run.entry 0 = some dev
    ∧ (((runWith fun e => { e with nackCount := 2, watchSet := 1 }).relayHealth 0 .nack).entry 0).map Entry.health
      = some .absent
    ∧ (((runWith fun e => { e with nackCount := 2, watchSet := 1 }).relayHealth 0 .nack).port 0).notify.flags = 0b10000
    ∧ (((runWith fun e => { e with nackCount := 3, watchSet := 1 }).relayHealth 0 .ack).port 0).notify.flags
      = 0b100000 := by decide +kernel

/-- The hypotheses of TransactionCompletes, and the read's record. -/
theorem test_transactionComplete : (reading.engine.reads readSamples).1.busState = .busy
    ∧ (reading.engine.reads readSamples).1.recovery = none
    ∧ ((reading.engine.reads readSamples).1.transaction.any fun t => t.requester = .scheduler && t.outcome = some .ok)
      = true
    ∧ (reading.scheduler.current.any fun c => c.slot.isNone && !c.discard) = true
    ∧ ((after (.transactionComplete { samples := readSamples, mckLow := false }) reading).port 0).completions = [record1]
    ∧ (after (.transactionComplete { samples := readSamples, mckLow := false }) reading).engine = Engine.initial
    ∧ ((after (.transactionComplete { samples := nackSamples, mckLow := false }) reading).entry 0).map Entry.health
      = some .suspect
    ∧ (after (.transactionComplete { samples := [true, false, false], mckLow := false }) reading).engine.busState
      = .recovering := by decide +kernel

/-- A command that reports before the outcome, or for another requester, takes no report. -/
theorem test_early_report :
    (after (.transactionComplete { samples := readSamples.take 38, mckLow := false }) reading).scheduler.current
      = reading.scheduler.current
    ∧ (after (.transactionComplete { samples := readSamples.take 38, mckLow := false }) reading).engine
      = (reading.engine.reads (readSamples.take 38)).1 := by decide +kernel

/-- The third NACK tells DEVICE_LOST to the watcher; a READ that ends OK tells no change. -/
theorem test_transaction_flags :
    ((after (.transactionComplete { samples := nackSamples, mckLow := false })
      (after (.grant silent) (queued (runWith fun e => { e with nackCount := 2, watchSet := 2 }) 0
        (req .read 1 0 0)))).port 1).notify.flags = 0b0000010000
    ∧ ((after (.transactionComplete { samples := readSamples, mckLow := false })
      (after (.grant silent) (queued (runWith fun e => { e with watchSet := 2 }) 0 (req .read 1 0 0)))).port 1).notify
      = (run.port 1).notify
    ∧ ((after (.pollIterationComplete { samples := nackSamples, mckLow := false })
      (after (.grant silent) (parked (runWith fun e => { e with nackCount := 2, watchSet := 2 }) id))).port 1).notify.flags
      = 0b0000010000 := by decide +kernel

/-- The report that makes E0 ABSENT ends the DUE slot on it NO_DEVICE in the act, and a RUNNING or WAITING one stands. -/
theorem test_report_makes_absent :
    [PollState.due, .running, .waiting].map (fun st =>
      let t := after (.transactionComplete { samples := nackSamples, mckLow := false })
        ((after (.grant silent) (queued (runWith fun e => { e with nackCount := 2 }) 0 (req .read 1 0 0))).setPoll 3
          (some { poll0 with port := 2, state := st }))
      ((t.poll 3).isSome, (t.port 2).completions.map Completion.status))
    = [(false, [.noDevice]), (true, []), (true, [])] := by decide +kernel

/-- A slot's answers: met, unmet with a wait, unmet at count 1, cancelled, refused. -/
theorem test_pollAnswer : (poll0.answer 0 { status := .ok, count := 1, data := [7] }).2 = some .ok
    ∧ poll0.answer 3 { status := .ok, count := 1, data := [8] }
      = ({ poll0 with remaining := 1, lastByte := some 8, nextDue := 8, state := .waiting }, none)
    ∧ (({ poll0 with remaining := 1 } : Poll).answer 0 { status := .ok, count := 1, data := [8] }).2 = some .exhausted
    ∧ (({ poll0 with interval := 0 } : Poll).answer 0 { status := .ok, count := 1, data := [8] }).1.state = .due
    ∧ (({ poll0 with cancelPending := true } : Poll).answer 0 { status := .ok, count := 1, data := [7] }).2 = some .aborted
    ∧ (poll0.answer 0 { status := .nackAddr, count := 0, data := [] }) = (poll0, some .nackAddr) := by decide +kernel

/-- RUN with port 0's poll running, its condition met by the byte 7. -/
def polling : State := after (.grant silent) (parked run id)

theorem test_pollIterationComplete : (polling.engine.reads readSamples).1.recovery = none
    ∧ ((polling.engine.reads readSamples).1.transaction.any fun t => t.requester = .scheduler && t.outcome = some .ok)
      = true
    ∧ polling.scheduler.current.map Current.slot = some (some 0) ∧ (polling.poll 0).isSome = true
    ∧ (after (.pollIterationComplete { samples := readSamples, mckLow := false }) polling).poll 0 = none
    ∧ ((after (.pollIterationComplete { samples := readSamples, mckLow := false }) polling).port 0).completions.map
      Completion.data = [[7]] := by decide +kernel

/-- An unmet iteration with interval 0 on an entry another port has locked since: BLOCKED, or ended LOCKED. -/
theorem test_pollIteration_locked :
    ((after (.pollIterationComplete { samples := readSamples, mckLow := false })
      ((after (.grant silent) (parked run fun q => { q with interval := 0, matchByte := 8 })).setEntry 0
        (some (dev.lockTo 1 2)))).poll 0).map Poll.state = some .blocked
    ∧ ((after (.pollIterationComplete { samples := readSamples, mckLow := false })
      ((after (.grant silent) (parked run fun q => { q with interval := 0, matchByte := 8, waitLimit := 0 })).setEntry 0
        (some (dev.lockTo 1 2)))).port 0).completions.map Completion.status = [.locked]
    ∧ (after (.pollIterationComplete { samples := readSamples, mckLow := false }) (ends polling 0 .hold [0])).poll 0 = none
    ∧ ((after (.pollIterationComplete { samples := readSamples, mckLow := false }) (ends polling 0 .hold [0])).port
      0).completions = [] := by decide +kernel

/-- The engine after an iteration: READY, or RECOVERING after a stuck line. -/
theorem test_pollIteration_engine :
    (after (.pollIterationComplete { samples := readSamples, mckLow := false }) polling).engine = Engine.initial
    ∧ (after (.pollIterationComplete { samples := [true, false, false], mckLow := false }) polling).engine.recovery
      = some (Recovery.fresh .afterStuck) := by decide +kernel

/-- The walk at its stops: a byte not staged, the end marker with and without a checksum, a record marker whose count or
bytes are not staged, a bad count, another byte, and a record passed. -/
theorem test_walk : walkFrom list1 21 21 = ([], 21, .waits) ∧ walkFrom list1 21 19 = ([], 19, .ended)
    ∧ walkFrom (list1.take 20) 20 19 = ([], 19, .waits) ∧ walkFrom (list1.take 13) 13 8 = ([], 8, .waits)
    ∧ walkFrom (list1.take 18) 18 8 = ([], 8, .waits) ∧ walkFrom (list1.set 13 0) 21 8 = ([], 8, .badCount)
    ∧ walkFrom (list1.set 13 5) 21 8 = ([], 8, .badCount) ∧ walkFrom list1 21 9 = ([], 9, .badMarker)
    ∧ walkFrom list1 21 8 = ([{ number := 0, address := 0x20, type := 1, lockLevel := 3, windows := dev.windows }], 19,
        .ended)
    ∧ (walkFrom list1 21 8).1.map RawRecord.toEntry = [dev] ∧ listedEntry list1 1 = none := by decide +kernel

/-- A loader's read that leaves the list unfinished, one that ends a valid list, one that is refused. -/
theorem test_loaderReadComplete :
    (loaderEnded (loading []) (list1.take 16) .ok).phase = .loading
    ∧ (walkFrom (list1.take 16) 16 8).2.2 = .waits
    ∧ ((after (.loaderReadComplete silent) (loaderEnded (loading []) (list1.take 16) .ok)).engine.transaction.map
        Transaction.indexBytes) = some [0, 16]
    ∧ validate list1 = none
    ∧ (after (.loaderReadComplete silent) (loaderEnded (loading (list1.take 16)) (list1.drop 16) .ok)).entry 0 = some dev
    ∧ (after (.loaderReadComplete silent) (loaderEnded (loading (list1.take 16)) (list1.drop 16) .ok)).engine.speed
      = .khz400
    ∧ ((after (.loaderReadComplete silent) (loaderEnded (loading (list1.take 16)) (list1.drop 16) .ok)).port 3).state
      = .offline
    ∧ ((after (.loaderReadComplete silent)
        (loaderEnded (on (loading (list1.take 16)) 3 .status) (list1.drop 16) .ok)).port 3).frame = .ignored
    ∧ (after (.loaderReadComplete silent) (loaderEnded (loading []) [] .nackAddr)).loader.fault = .noMemory
    ∧ (after (.loaderReadComplete silent) (loaderEnded (loading (list1.take 16)) [] .nackAddr)).loader.fault = .busError := by
  decide +kernel

/-- A loader's read that ends BUS_STUCK: the loader waits for the recovery and then ends with BUS_ERROR. -/
def loadStuck : State := after (.loaderReadComplete { samples := [true, false], mckLow := false }) (loading [])

theorem test_loader_stuck : loadStuck.phase = .loading ∧ loadStuck.loader.step = .reading
    ∧ loadStuck.engine.recovery = some (Recovery.fresh .afterStuck)
    ∧ (after (.recoveryComplete { samples := [true, true], mckLow := false }) loadStuck).loader.fault = .busError
    ∧ (after (.recoveryComplete { samples := [true, true], mckLow := false }) loadStuck).engine.busState = .ready
    ∧ (after (.recoveryComplete { samples := List.replicate 10 false, mckLow := false }) loadStuck).engine.busState = .faulted
    ∧ (after (.recoveryComplete { samples := List.replicate 11 false, mckLow := false }) (loading [])).loader.fault
      = .busError
    ∧ (after (.recoveryComplete { samples := List.replicate 11 false, mckLow := false }) (loading [])).engine.busState
      = .faulted := by decide +kernel

/-- The load faults in their order, each by one change of the valid list. -/
theorem test_validate : validate (list1.set 0 0) = some .badSignature ∧ validate (list1.set 2 2) = some .badVersion
    ∧ validate (list1.set 3 4) = some .badHeader ∧ validate (list1.set 4 3) = some .badHeader
    ∧ validate (list1.set 10 7) = some .badRecord ∧ validate (list1.set 9 32) = some .order
    ∧ validate (list1.set 20 0) = some .checksum ∧ validate (list1.set 8 0) = some .badRecord
    ∧ validate (list1.take 19) = some .tooLong
    ∧ validate (list1.take 19 ++ [0xE0, 1, 0x20, 1, 3, 1, 0, 0, 0, 0, 0, 0xFF, 0]) = some .dupAddress := by decide +kernel

/-- Recoveries of the four causes that end well, and one that fails with every reading low. -/
theorem test_recoveryComplete :
    ((recovering .retry .recovering).reads [true, true]).1.recovery.map Recovery.outcome = some (some true)
    ∧ (after (.recoveryComplete { samples := [true, true], mckLow := false })
        (run.setEngine { recovering .retry .recovering with fault := true })).engine = Engine.initial
    ∧ ((after (.recoveryComplete { samples := [true, true], mckLow := false })
        (run.setEngine (recovering .retry .recovering))).port 0).notify.flags = 0b0010000000
    ∧ (after (.recoveryComplete { samples := List.replicate 10 false, mckLow := false })
        (run.setEngine (recovering .afterStuck .recovering))).engine.retry = some 0
    ∧ ((after (.recoveryComplete { samples := List.replicate 10 false, mckLow := false })
        (run.setEngine (recovering .afterStuck .recovering))).port 0).notify.flags = 0b0001000000
    ∧ (after (.recoveryComplete { samples := [true, true], mckLow := false })
        (after (.loaderStart false false silent) State.reset)).loader.step = .reading
    ∧ (after (.recoveryComplete { samples := List.replicate 10 false, mckLow := false })
        (after (.loaderStart false false silent) State.reset)).loader.fault = .busError := by decide +kernel

/-- A DUE slot ends BUS_FAULT when the bus enters FAULTED, by a failed reading or by the stretch limit, and stands when
the recovery succeeds. -/
theorem test_recovery_judges_slots : [RecoveryCause.afterStuck, .retry].all (fun c =>
    let s := (parked run id).setEngine { recovering c .recovering with stretch := some 26 }
    let failed := after (.recoveryComplete { samples := List.replicate 10 false, mckLow := false }) s
    let cut := after (.stretchLimit silent) s
    (after (.recoveryComplete { samples := [true, true], mckLow := false }) s).poll 0 = some poll0
      && [failed, cut].all fun t => (t.poll 0).isNone && (t.port 0).completions.map Completion.status = [.busFault])
    = true := by decide +kernel

/-- A blocked START that recovers lets its transaction go on; one that does not ends it and faults the bus. -/
theorem test_blockedStart :
    (reading.engine.reads [false, true, true]).1.recovery.map Recovery.outcome = some (some true)
    ∧ (after (.recoveryComplete { samples := [false, true, true], mckLow := false }) reading).engine = reading.engine
    ∧ (after (.recoveryComplete { samples := List.replicate 11 false, mckLow := false }) reading).engine.busState = .faulted
    ∧ ((after (.recoveryComplete { samples := List.replicate 11 false, mckLow := false }) reading).port 0).completions.map
      Completion.status = [.busStuck]
    ∧ ((after (.recoveryComplete { samples := List.replicate 11 false, mckLow := false }) reading).port 3).notify.flags
      = 0b0001000000 := by decide +kernel

/-- `s` with its transaction past the samples and the stretch timer at 26. -/
def stretched (s : State) (samples : List Bool) : State :=
  s.setEngine { (s.engine.reads samples).1 with stretch := some 26 }

/-- A poll iteration cut by the stretch limit ends its poll BUS_STUCK, or ABORTED when marked. -/
theorem test_stretchLimit_poll : (stretched polling [true]).scheduler.current.map Current.slot = some (some 0)
    ∧ (after (.stretchLimit silent) (stretched polling [true])).poll 0 = none
    ∧ ((after (.stretchLimit silent) (stretched polling [true])).port 0).completions.map Completion.status = [.busStuck]
    ∧ ((after (.stretchLimit silent) (stretched (ends polling 0 .cancel [9]) [true])).port 0).completions.map
      Completion.status = [.aborted] := by decide +kernel

/-- RUN with port 0's WRITE of E0 granted, port 1 watching. -/
def writing : State := after (.grant silent) (queued (runWith fun e => { e with watchSet := 2 }) 0 (req .write 1 0 0))

/-- The samples of the WRITE up to its STOP: address, index and data acknowledged. -/
def writeSamples : List Bool :=
  [true] ++ (bitsOfByte 0x40 ++ [false]) ++ (bitsOfByte 0 ++ [false]) ++ (bitsOfByte 0xA5 ++ [false])

/-- A WRITE cut by the stretch limit gives its write notice when its byte was acknowledged, and none before. -/
theorem test_stretchLimit_write :
    ((after (.stretchLimit silent) (stretched writing writeSamples)).port 1).notify.changed = 1
    ∧ ((after (.stretchLimit silent) (stretched writing writeSamples)).port 0).completions.map Completion.count = [1]
    ∧ ((after (.stretchLimit silent) (stretched writing (writeSamples.take 27))).port 1).notify.changed = 0
    ∧ (after (.stretchLimit silent) (stretched writing writeSamples)).entry 0 = writing.entry 0 := by decide +kernel

/-- A recovery failed by the stretch limit raises BUS_FAULT once, at the start of the fault episode. -/
theorem test_stretchLimit_busFault :
    ((after (.stretchLimit silent)
        (run.setEngine { recovering .afterStuck .recovering with stretch := some 26 })).port 0).notify.flags = 0b0001000000
    ∧ ((after (.stretchLimit silent)
        (run.setEngine { recovering .retry .recovering with stretch := some 26, fault := true })).port 0).notify.flags = 0 := by
  decide +kernel

/-- `reading` past its START with the stretch timer at 26; the same before the START; a retry's recovery stretched. -/
theorem test_stretchLimit :
    ((reading.engine.reads [true]).1.driving = true ∧ ((reading.engine.reads [true]).1.transaction.any fun t => !t.atStart))
    ∧ (after (.stretchLimit silent)
        (reading.setEngine { (reading.engine.reads [true]).1 with stretch := some 26 })).engine.busState = .recovering
    ∧ (after (.stretchLimit silent) (reading.setEngine { reading.engine with stretch := some 26 })).engine.recovery
      = some (Recovery.fresh .blockedStart)
    ∧ (after (.stretchLimit silent)
        (run.setEngine { recovering .retry .recovering with stretch := some 26 })).engine.busState = .faulted := by
  decide +kernel

theorem test_retry : (run.setEngine faulted).engine.retry = some 100
    ∧ (after (.retry silent) (run.setEngine faulted)).engine.busState = .recovering
    ∧ (after (.retry silent) (run.setEngine { faulted with retry := some 99 })).engine.busState = .faulted := by
  decide +kernel

/-! ### Expiries -/

/-- RUN with port 1's lease on E0 run out, port 2 waiting for the lock or not. -/
def lapsed (s : State) : State := s.modEntry 0 fun e => { e with leaseRemaining := 0 }

theorem test_leaseExpiry : ((lapsed heirWaits).entry 0).map Entry.owner = some (some 1)
    ∧ ((lapsed heirWaits).entry 0).map Entry.leaseRemaining = some 0 ∧ (lapsed heirWaits).lockWaiter 0 2 = some 3
    ∧ (∀ q, q ≠ 2 → (lapsed heirWaits).lockWaiter 0 q = none) ∧ (∀ q, (lapsed lockedBy1).lockWaiter 0 q = none)
    ∧ ((after (.leaseExpiry 0) (lapsed heirWaits)).port 2).completions.map Completion.previousRelease = [some .expired]
    ∧ ((after (.leaseExpiry 0) (lapsed heirWaits)).port 1).notify.flags = 0b0000001000
    ∧ ((after (.leaseExpiry 0) (lapsed lockedBy1)).entry 0).map Entry.releaseReason = some .expired := by decide +kernel

/-- A LOCK of port 2 whose timer has reached its wait limit of 9. -/
def overdue : State := heirWaits.modPort 2 fun u => { u with deferral := some 9 }

theorem test_deferralExpiry : overdue.headState 2 = some .deferred ∧ (overdue.port 2).deferral = some 9
    ∧ ((after (.deferralExpiry 2) overdue).port 2).completions.map Completion.status = [.locked]
    ∧ ((after (.deferralExpiry 2) (overdue.modPort 2 fun u => { u with credits := 8 })).port 2).lockedMark = true := by
  decide +kernel

theorem test_blockExpiry :
    ((parked lockedBy1 fun q => { q with state := .blocked, blockTimer := some 4 }).poll 0).map Poll.waitLimit = some 4
    ∧ ((after (.blockExpiry 0) (parked lockedBy1 fun q => { q with state := .blocked, blockTimer := some 4 })).port
      0).completions.map Completion.status = [.locked]
    ∧ ((after (.blockExpiry 0) (parked lockedBy1 fun q => { q with state := .blocked, blockTimer := some 3 })).poll
      0).isSome = true := by decide +kernel

/-- Nothing expires before its limit. -/
theorem test_not_expired : after (.leaseExpiry 0) lockedBy1 = lockedBy1 ∧ after (.deferralExpiry 2) heirWaits = heirWaits
    ∧ after (.pollDue 0) (parked run id) = parked run id
    ∧ after (.loaderStart true true silent) config = config
    ∧ after (.stretchLimit silent) (reading.setEngine { reading.engine with stretch := some 25 })
      = reading.setEngine { reading.engine with stretch := some 25 } := by decide +kernel

theorem test_pollDue : ((after (.pollDue 0) (parked run fun q => { q with state := .waiting })).poll 0).map Poll.state
      = some .due
    ∧ ((after (.pollDue 0) (parked run fun q => { q with state := .waiting, nextDue := 1 })).poll 0).map Poll.state
      = some .waiting := by decide +kernel

/-! ### Invariants -/

/-- `reading` with the end of its transaction commanded. -/
def readingStep : State := { reading with pending := [.transactionComplete { samples := readSamples, mckLow := false }] }

/-- A state on the way, not the reset state, meets the premises of the invariants' statements, and its step answers. -/
theorem test_invariants : readingStep.busSound ∧ readingStep.quietOutsideRun ∧ readingStep.loadingIsBare
    ∧ readingStep.someoneCanRelease ∧ readingStep.creditsBalance ∧ readingStep.tagsDiffer
    ∧ ∃ t, step readingStep = .next t := by
  refine ⟨?_, ?_, ?_, ?_, ?_, ?_, _, rfl⟩ <;> decide +kernel

theorem test_invariants_ports : readingStep.idlePortsBare := by
  intro p
  refine ⟨?_, ?_, ?_⟩
  · revert p; decide +kernel
  · revert p; decide +kernel
  · intro h; exact absurd h (by revert p; decide +kernel)

theorem test_invariants_entries : readingStep.locksSound ∧ readingStep.directorySound := by
  refine ⟨fun e => of_all ?_, fun e => of_all ?_, fun e e' x x' h h' ha => ?_⟩
  · revert e; decide +kernel
  · revert e; decide +kernel
  · have key : ∀ e e' : EntryNo, (readingStep.entry e).all (fun x => (readingStep.entry e').all fun x' =>
        decide (x.address = x'.address → e = e')) = true := by decide +kernel
    have := key e e'
    rw [h, h'] at this
    simpa [ha] using this

end Sys2Proof.Tests
end

