-- ==== Sys2Proof/Proofs/Tick.lean ====
section
/-! SUPPORT. TICK: what one tick does to each timer and what it leaves unchanged, and the statement about it. -/

namespace Sys2Proof.Machine

/-! ### The time base -/

/-- The time base and the count of free values are all that `tickTime` changes. -/
theorem State.tickTime_eq (s : State) :
    s.tickTime = { s with timeBase := s.tickTime.timeBase, freeCount := s.tickTime.freeCount } := by
  unfold State.tickTime
  split <;> rfl

/-- Below its largest value the time base rises by 1, and no free value is read. -/
theorem State.tickTime_below {s : State} (h : s.timeBase ≠ BitVec.allOnes 48) :
    s.tickTime = { s with timeBase := s.timeBase + 1 } := if_neg h

@[simp] theorem State.pending_tickTime (s : State) : s.tickTime.pending = s.pending := by rw [s.tickTime_eq]
@[simp] theorem State.phase_tickTime (s : State) : s.tickTime.phase = s.phase := by rw [s.tickTime_eq]
@[simp] theorem State.resetn_tickTime (s : State) : s.tickTime.resetn = s.resetn := by rw [s.tickTime_eq]
@[simp] theorem State.loader_tickTime (s : State) : s.tickTime.loader = s.loader := by rw [s.tickTime_eq]
@[simp] theorem State.scheduler_tickTime (s : State) : s.tickTime.scheduler = s.scheduler := by rw [s.tickTime_eq]
@[simp] theorem State.engine_tickTime (s : State) : s.tickTime.engine = s.engine := by rw [s.tickTime_eq]
@[simp] theorem State.port_tickTime (s : State) (p : Port) : s.tickTime.port p = s.port p := by
  rw [s.tickTime_eq]; rfl
@[simp] theorem State.entry_tickTime (s : State) (e : EntryNo) : s.tickTime.entry e = s.entry e := by
  rw [s.tickTime_eq]; rfl
@[simp] theorem State.poll_tickTime (s : State) (k : SlotNo) : s.tickTime.poll k = s.poll k := by
  rw [s.tickTime_eq]; rfl

/-! ### The timers of the units -/

/-- The lease of an entry runs exactly while the entry has an owner (R70). -/
theorem Entry.tick_eq (x : Entry) :
    x.tick = if x.owner = none then x else { x with leaseRemaining := x.leaseRemaining - 1 } := by
  unfold Entry.tick
  cases x.owner <;> simp

/-- A DEFERRED head's deferral timer stops at the top of its range (R58, log 17). -/
theorem State.tickPort_eq (s : State) (p : Port) (u : PortUnit) :
    s.tickPort p u = if s.headState p = some .deferred then
      { u with deferral := u.deferral.map fun n => min 65535 (n + 1) } else u := rfl

/-- A BLOCKED slot's block timer stops at the top of its range (R93, log 17). -/
theorem Poll.tick_eq (q : Poll) :
    q.tick = if q.state = .blocked then { q with blockTimer := some (min 65535 (q.blockTimer.getD 0 + 1)) } else q := rfl

/-- The stretch timer runs while the engine drives and MCK stays low, the retry timer on a FAULTED bus, each to the top
of its range (R113, R119, log 17). -/
theorem Engine.tick_eq (e : Engine) (mckLow : Bool) :
    e.tick mckLow = { e with
      stretch := if e.driving && mckLow then some (min 26 (e.stretch.getD 0 + 1)) else none,
      retry := if e.busState = .faulted then e.retry.map fun n => min 100 (n + 1) else e.retry } := rfl

/-! ### The tick, part by part -/

@[simp] theorem State.pending_tick (s : State) (bus : BusRead) : (s.tick bus).pending = s.pending := by
  simp [State.tick]
@[simp] theorem State.timeBase_tick (s : State) (bus : BusRead) : (s.tick bus).timeBase = s.timeBase := by
  simp [State.tick]
@[simp] theorem State.phase_tick (s : State) (bus : BusRead) : (s.tick bus).phase = s.phase := by
  simp [State.tick]
@[simp] theorem State.resetn_tick (s : State) (bus : BusRead) : (s.tick bus).resetn = s.resetn := by
  simp [State.tick]
@[simp] theorem State.loader_tick (s : State) (bus : BusRead) : (s.tick bus).loader = s.loader := by
  simp [State.tick]
@[simp] theorem State.freeCount_tick (s : State) (bus : BusRead) : (s.tick bus).freeCount = s.freeCount := by
  simp [State.tick]
@[simp] theorem State.turn_tick (s : State) (bus : BusRead) :
    (s.tick bus).scheduler.turn = s.scheduler.turn := by
  simp [State.tick]
@[simp] theorem State.current_tick (s : State) (bus : BusRead) :
    (s.tick bus).scheduler.current = s.scheduler.current := by
  simp [State.tick]
@[simp] theorem State.port_tick (s : State) (bus : BusRead) (p : Port) :
    (s.tick bus).port p = s.tickPort p (s.port p) := by
  simp [State.tick]
@[simp] theorem State.entry_tick (s : State) (bus : BusRead) (e : EntryNo) :
    (s.tick bus).entry e = (s.entry e).map Entry.tick := by
  simp [State.tick]
@[simp] theorem State.poll_tick (s : State) (bus : BusRead) (k : SlotNo) :
    (s.tick bus).poll k = (s.poll k).map Poll.tick := by
  simp [State.tick]
@[simp] theorem State.engine_tick (s : State) (bus : BusRead) :
    (s.tick bus).engine = (s.engine.reads bus.samples).1.tick bus.mckLow := by
  simp [State.tick]

/-- TICK moves the timers of the units, then the time base. -/
theorem exec_tick (s : State) (bus : BusRead) : exec (.tick bus) s = .next (s.tick bus).tickTime := rfl

/-- Below its largest value the time base rises by 1 at a whole tick, and no free value is read. -/
theorem State.time_after_tick {s : State} (bus : BusRead) (h : s.timeBase ≠ BitVec.allOnes 48) :
    (s.tick bus).tickTime.timeBase = s.timeBase + 1 ∧ (s.tick bus).tickTime.freeCount = s.freeCount := by
  have below : (s.tick bus).timeBase ≠ BitVec.allOnes 48 := by simpa using h
  simp [State.tickTime_below below]

/-- Settles O6: the state after the tick is read part by part, each timer by the equation of its unit. -/
theorem tickMovesTimers : Obligations.TickMovesTimers := by
  intro s bus
  refine ⟨_, exec_tick s bus, State.time_after_tick bus, fun e => ?lease, fun p => ?deferral, fun k => ?block, ?engine,
    ?turn, ?current, ?phase, ?resetn, ?loader, ?pending⟩
  case lease => simp [funext Entry.tick_eq]
  case deferral => simp [State.tickPort_eq]
  case block => simp [funext Poll.tick_eq]
  case engine =>
    rintro _ rfl
    simp [Engine.tick_eq]
  all_goals simp

end Sys2Proof.Machine
end

/-! SUPPORT. FENCE_HEAD, POLL_PARKING and the expiries of waits: what each takes or leaves, and the statements about them. -/

namespace Sys2Proof.Machine

/-! ### Heads that are taken -/

/-- Taking the head leaves the rest of the queue. -/
theorem State.modPort_takeHead {s : State} {p : Port} {r : Request} {rest : List Request}
    (h : (s.port p).requests = r :: rest) :
    s.modPort p PortUnit.takeHead = s.setPort p ((s.port p).headTaken rest) := by
  simp [State.modPort_eq, PortUnit.takeHead, PortUnit.dropHead, PortUnit.headTaken, h]

/-- The record of a FENCE names entry 0 (R40). -/
theorem plainRecord_fence {r : Request} (h : r.kind = .fence) (st : Status) (prev : Option PrevRelease) :
    plainRecord r st prev = recordWithoutBus r 0 st prev := by
  simp [plainRecord, recordWithoutBus, h]

/-- The record of any other request names the entry as carried (R40). -/
theorem plainRecord_of_ne_fence {r : Request} (h : r.kind ≠ .fence) (st : Status) (prev : Option PrevRelease) :
    plainRecord r st prev = recordWithoutBus r r.entry st prev := by
  simp [plainRecord, recordWithoutBus, h]

/-- A ready head of a kind that no lock defers is taken (R50, R58). -/
theorem State.readyHead_of_headReady {s : State} {p : Port} {r : Request} {rest : List Request}
    (h : s.headReady p r rest) (hk : defersOnLock r.kind = false) : s.readyHead p = some r :=
  State.readyHead_eq_some.mpr ⟨⟨rest, h⟩, fun ⟨hm, _⟩ => by cases hr : r.kind <;> simp [hr, defersOnLock] at hk hm⟩

/-! ### FENCE_HEAD -/

/-- FENCE_HEAD takes a ready FENCE of a port without parked polls, and does nothing else. -/
theorem exec_fenceHead (s : State) (p : Port) :
    exec (.fenceHead p) s = .next (match s.readyHead p with
      | none => s
      | some r => if r.kind = .fence ∧ s.parked p = 0 then
          (s.modPort p PortUnit.takeHead).settle [(p, plainRecord r .ok none)] else s) := rfl

/-- A port has no poll parked exactly when no slot holds one of its polls. -/
theorem State.parked_eq_zero {s : State} {p : Port} : s.parked p = 0 ↔ ∀ k q, s.poll k = some q → q.port ≠ p := by
  simp [State.parked, List.countP_eq_zero, Option.any_eq_false]

/-- Settles O31: the head is ready since no lock defers a FENCE; the count of parked polls decides. -/
theorem fenceCompletesWithoutPolls : Obligations.FenceCompletesWithoutPolls := by
  intro s p r rest hk
  refine ⟨fun hready hnone => ?_, fun _ ⟨k, q, hpoll, hport⟩ => ?_⟩
  · obtain ⟨-, -, hqueue, -⟩ := id hready
    rw [exec_fenceHead, State.readyHead_of_headReady hready (by simp [hk, defersOnLock])]
    simp [hk, State.parked_eq_zero.mpr hnone, State.modPort_takeHead hqueue, plainRecord_fence hk]
  · have hparked : s.parked p ≠ 0 := fun h => State.parked_eq_zero.mp h k q hpoll hport
    rw [exec_fenceHead]
    cases s.readyHead p <;> simp [hparked]

/-! ### POLL_PARKING -/

/-- POLL_PARKING parks a ready head that has a place, and does nothing else. -/
theorem exec_pollParking (s : State) (p : Port) :
    exec (.pollParking p) s = .next (match s.readyHead p with
      | none => s
      | some r =>
        match s.parkingPlace p r with
        | none => s
        | some (k, e, en) => ((s.modPort p PortUnit.takeHead).setPoll k
            (some (parkedPoll p r e en.type s.timeBase))).settle []) := rfl

/-- Slot `k` is the lowest free one exactly when it is free and those below it are not. -/
theorem State.freeSlot_eq_some {s : State} {k : SlotNo} :
    s.freeSlot = some k ↔ s.poll k = none ∧ ∀ j : SlotNo, j.val < k.val → s.poll j ≠ none := by
  unfold State.freeSlot
  rw [List.find?_eq_some_iff_getElem]
  simp only [Option.isNone_iff_eq_none, List.getElem_finRange, List.length_finRange, Bool.not_eq_true',
    Option.isNone_eq_false_iff, Option.isSome_iff_ne_none]
  constructor
  · rintro ⟨hk, i, hi, rfl, hj⟩
    exact ⟨hk, fun j hlt => hj j hlt⟩
  · rintro ⟨hk, hj⟩
    exact ⟨hk, k.val, k.isLt, rfl, fun j hlt => hj ⟨j, by omega⟩ hlt⟩

/-- No slot is free exactly when every slot holds a poll. -/
theorem State.freeSlot_eq_none {s : State} : s.freeSlot = none ↔ ∀ k, s.poll k ≠ none := by
  simp [State.freeSlot, List.find?_eq_none]

/-- Without room a head has no place to be parked in (R53). -/
theorem State.parkingPlace_full {s : State} {p : Port} (h : 3 ≤ s.parked p ∨ ∀ k, s.poll k ≠ none) (r : Request) :
    s.parkingPlace p r = none := by
  unfold State.parkingPlace
  split
  next hroom => rw [State.freeSlot_eq_none.mpr (h.resolve_left (by omega))]
  next => rfl

/-- With room a POLL's place is the lowest free slot. -/
theorem State.parkingPlace_free {s : State} {p : Port} {r : Request} {e : EntryNo} {x : Entry} {k : SlotNo}
    (hk : r.kind = .poll) (hroom : s.parked p < 3) (he : entryOfByte r.entry = some e) (hx : s.entry e = some x)
    (hfree : s.freeSlot = some k) : s.parkingPlace p r = some (k, e, x) := by
  simp [State.parkingPlace, hk, hroom, he, hx, hfree]

/-- Settles O32: the place of the poll is the lowest free slot, or there is none. -/
theorem pollParksInLowestSlot : Obligations.PollParksInLowestSlot := by
  refine ⟨fun _ _ => rfl, fun s p r rest _ _ hfull => ?_, ?_⟩
  · rw [exec_pollParking]
    cases s.readyHead p <;> simp [State.parkingPlace_full hfull]
  · intro s p r rest e x k hready hk hroom he hx hfree hlower
    obtain ⟨-, -, hqueue, -⟩ := id hready
    rw [exec_pollParking, State.readyHead_of_headReady hready (by simp [hk, defersOnLock])]
    simp only [State.parkingPlace_free hk hroom he hx (State.freeSlot_eq_some.mpr ⟨hfree, hlower⟩),
      State.modPort_takeHead hqueue]
    rfl

/-! ### The expiries of waits -/

/-- A head's wait has expired exactly when it is DEFERRED and its timer has reached a limit other than 255 (R58). -/
theorem State.deferralExpired_eq_some {s : State} {p : Port} {r : Request} :
    s.deferralExpired p = some r ↔ s.head p = some r ∧ s.headState p = some .deferred ∧ r.waitLimit ≠ 255
      ∧ r.waitLimit.toNat ≤ (s.port p).deferral.getD 0 := by
  unfold State.deferralExpired
  cases s.head p <;> simp
  grind

/-- DEFERRAL_EXPIRY takes or marks a head whose wait has expired, and does nothing else. -/
theorem exec_deferralExpiry (s : State) (p : Port) :
    exec (.deferralExpiry p) s = .next (match s.deferralExpired p with
      | none => s
      | some r => if (s.port p).creditFree then
          (s.modPort p PortUnit.takeHead).settle [(p, plainRecord r .locked none)]
        else s.modPort p fun u => { u with lockedMark := true }) := rfl

/-- DEFERRAL_EXPIRY of a head that has not expired changes nothing. -/
theorem exec_deferralExpiry_early {s : State} {p : Port} (h : s.headState p ≠ some .deferred
      ∨ ∀ r ∈ (s.port p).requests.head?, r.waitLimit = 255 ∨ (s.port p).deferral.getD 0 < r.waitLimit.toNat) :
    exec (.deferralExpiry p) s = .next s := by
  have hnone : s.deferralExpired p = none := by
    refine Option.eq_none_iff_forall_ne_some.mpr fun r hr => ?_
    obtain ⟨hhead, hstate, hlimit, hdone⟩ := State.deferralExpired_eq_some.mp hr
    rcases h.resolve_left (not_not_intro hstate) r hhead with h255 | hlt
    · exact hlimit h255
    · omega
  rw [exec_deferralExpiry, hnone]

/-- BLOCK_EXPIRY changes nothing unless the slot is BLOCKED and its timer has reached a limit other than 255. -/
theorem exec_blockExpiry (s : State) (k : SlotNo) :
    exec (.blockExpiry k) s = .next (match s.poll k with
      | none => s
      | some q => if q.state = .blocked ∧ q.waitLimit ≠ 255 ∧ q.waitLimit.toNat ≤ q.blockTimer.getD 0 then
          (s.setPoll k none).settle [(q.port, pollRecord q .locked)] else s) := rfl

/-- POLL_DUE changes nothing unless the slot is WAITING and its next-due time has come. -/
theorem exec_pollDue (s : State) (k : SlotNo) :
    exec (.pollDue k) s = .next (match s.poll k with
      | none => s
      | some q => if q.state = .waiting ∧ q.nextDue ≤ s.timeBase.toNat then
          (s.setPoll k (some { q with state := .due })).settle [] else s) := rfl

/-- DEFERRAL_EXPIRY of a head that has expired: it is taken with a free credit, and marked without one (log 11). -/
theorem exec_deferralExpiry_expired {s : State} {p : Port} {r : Request} {rest : List Request}
    (hq : (s.port p).requests = r :: rest) (h : s.deferralExpired p = some r) (hk : r.kind ≠ .fence) :
    exec (.deferralExpiry p) s = .next (if (s.port p).creditFree then
        (s.setPort p ((s.port p).headTaken rest)).settle [(p, recordWithoutBus r r.entry .locked none)]
      else s.setPort p { s.port p with lockedMark := true }) := by
  rw [exec_deferralExpiry, h]
  simp only [State.modPort_takeHead hq, plainRecord_of_ne_fence hk]
  rfl

/-- A DEFERRED head is no FENCE: no lock holds a FENCE back (R54, R58). -/
theorem State.kind_ne_fence_of_deferred {s : State} {p : Port} {r : Request} {rest : List Request}
    (hq : (s.port p).requests = r :: rest) (h : s.headState p = some .deferred) : r.kind ≠ .fence := by
  obtain ⟨hm, -⟩ := (State.headBlocked_iff hq).mp (State.headState_deferred.mp h).1
  rintro hk
  simp [hk] at hm

/-- Settles O51: each expiry asks for its state and its limit, and each case fails or meets them. -/
theorem waitsExpire : Obligations.WaitsExpire := by
  intro s
  refine ⟨fun p => exec_deferralExpiry_early, fun k hk => ?_, fun k hk => ?_, ?deferral, ?slot⟩
  · rw [exec_blockExpiry]
    cases hq : s.poll k with
    | none => rfl
    | some q =>
      have hearly : ¬ (q.state = .blocked ∧ q.waitLimit ≠ 255 ∧ q.waitLimit.toNat ≤ q.blockTimer.getD 0) := by
        have := hk q hq
        grind
      simp only [if_neg hearly]
  · rw [exec_pollDue]
    cases hq : s.poll k with
    | none => rfl
    | some q =>
      have hearly : ¬ (q.state = .waiting ∧ q.nextDue ≤ s.timeBase.toNat) := by
        have := hk q hq
        grind
      simp only [if_neg hearly]
  case deferral =>
    intro p r rest d hq hstate hd hlimit hdone
    have hexp : s.deferralExpired p = some r :=
      State.deferralExpired_eq_some.mpr ⟨by simp [State.head, hq], hstate, hlimit, by simpa [hd] using hdone⟩
    rw [exec_deferralExpiry_expired hq hexp (State.kind_ne_fence_of_deferred hq hstate)]
    exact ⟨fun hc => by simp [PortUnit.creditFree, hc], fun hc => by simp [PortUnit.creditFree, Nat.not_lt.mpr hc]⟩
  case slot =>
    intro k q hq
    refine ⟨fun hstate hlimit ⟨n, hn, hdone⟩ => ?_, fun hstate hdue => ?_⟩
    · rw [exec_blockExpiry, hq]
      simp only [hstate, hlimit, hn, hdone, ne_eq, not_false_eq_true, Option.getD_some, and_self, if_true]
      rfl
    · rw [exec_pollDue, hq]
      simp only [hstate, hdue, and_self, if_true]

end Sys2Proof.Machine

/-! SUPPORT. Judging: what it makes of each poll slot and each head, and the statement about it. -/

namespace Sys2Proof.Machine

/-! ### Judging a slot -/

/-- A poll's entry is ABSENT, as judging asks it. -/
theorem State.pollAbsent_iff {s : State} {q : Poll} : s.pollAbsent q = true ↔ s.entryAbsent q.entry := by
  simp [State.pollAbsent, State.entryAbsent, Option.any_eq_true, Entry.absent]

/-- A poll's entry is locked by another port, as judging asks it. -/
theorem State.pollLocked_iff {s : State} {q : Poll} : s.pollLocked q = true ↔ s.lockedAgainst q.entry q.port :=
  State.any_lockedByOther

/-- A DUE slot is judged, and a BLOCKED one whose lock is gone (R90, R94). -/
theorem State.judgeSlot_judged {s : State} {q : Poll}
    (h : q.state = .due ∨ (q.state = .blocked ∧ ¬ s.lockedAgainst q.entry q.port)) : s.judgeSlot q = s.judgeDue q := by
  unfold State.judgeSlot
  rcases h with h | ⟨h, hl⟩
  · simp only [h]
  · simp only [h, if_neg (mt State.pollLocked_iff.mp hl)]

/-- A WAITING or RUNNING slot stands. -/
theorem State.judgeSlot_idle {s : State} {q : Poll} (h : q.state = .waiting ∨ q.state = .running) :
    s.judgeSlot q = .keep q := by
  unfold State.judgeSlot
  rcases h with h | h <;> simp only [h]

/-- A BLOCKED slot still locked against its port stands. -/
theorem State.judgeSlot_blocked {s : State} {q : Poll} (h : q.state = .blocked) (hl : s.lockedAgainst q.entry q.port) :
    s.judgeSlot q = .keep q := by
  simp only [State.judgeSlot, h, State.pollLocked_iff.mpr hl, if_true]

/-- An ABSENT entry ends the poll, before anything else. -/
theorem State.judgeDue_absent {s : State} {q : Poll} (h : s.entryAbsent q.entry) : s.judgeDue q = .ends .noDevice := by
  simp only [State.judgeDue, State.pollAbsent_iff.mpr h, if_true]

/-- A FAULTED bus ends the poll, before the lock is looked at. -/
theorem State.judgeDue_faulted {s : State} {q : Poll} (ha : ¬ s.entryAbsent q.entry)
    (hf : s.engine.busState = .faulted) : s.judgeDue q = .ends .busFault := by
  simp only [State.judgeDue, if_neg (mt State.pollAbsent_iff.mp ha), if_pos hf]

/-- Another port's lock ends the poll with wait limit 0, and otherwise blocks it. -/
theorem State.judgeDue_locked {s : State} {q : Poll} (ha : ¬ s.entryAbsent q.entry)
    (hf : s.engine.busState ≠ .faulted) (hl : s.lockedAgainst q.entry q.port) :
    s.judgeDue q = if q.waitLimit = 0 then .ends .locked
      else .keep { q with state := .blocked, blockTimer := some (q.blockTimer.getD 0) } := by
  simp only [State.judgeDue, if_neg (mt State.pollAbsent_iff.mp ha), if_neg hf, State.pollLocked_iff.mpr hl, if_true]

/-- With nothing in its way the slot is DUE. -/
theorem State.judgeDue_free {s : State} {q : Poll} (ha : ¬ s.entryAbsent q.entry)
    (hf : s.engine.busState ≠ .faulted) (hl : ¬ s.lockedAgainst q.entry q.port) :
    s.judgeDue q = .keep { q with state := .due } := by
  simp only [State.judgeDue, if_neg (mt State.pollAbsent_iff.mp ha), if_neg hf, if_neg (mt State.pollLocked_iff.mp hl)]

/-! ### Judging the Poll Table -/

@[simp] theorem State.judgedSlot_none (s : State) : s.judgedSlot none = none := rfl

/-- A slot that is kept holds what judging made of its poll. -/
theorem State.poll_settle_keep {s : State} {k : SlotNo} {q q' : Poll} (hq : s.poll k = some q)
    (h : s.judgeSlot q = .keep q') (recs : List (Port × Completion)) : (s.settle recs).poll k = some q' := by
  simp [State.judgedSlot, hq, h]

/-- A slot whose poll ends is free. -/
theorem State.poll_settle_ends {s : State} {k : SlotNo} {q : Poll} {st : Status} (hq : s.poll k = some q)
    (h : s.judgeSlot q = .ends st) (recs : List (Port × Completion)) : (s.settle recs).poll k = none := by
  simp [State.judgedSlot, hq, h]

/-- A slot that held a poll has a record to give exactly when judging frees it. -/
theorem State.isSome_judgedRecord (s : State) (o : Option Poll) :
    (s.judgedRecord o).isSome = (o.isSome && (s.judgedSlot o).isNone) := by
  cases o with
  | none => rfl
  | some q => cases h : s.judgeSlot q <;> simp [State.judgedRecord, State.judgedSlot, h]

/-- The records of judging are those of the slots whose polls end. -/
theorem State.mem_pollEnds {s : State} {z : Port × Completion} :
    z ∈ s.pollEnds ↔ ∃ k q st, s.poll k = some q ∧ s.judgeSlot q = .ends st ∧ z = (q.port, recordOfPoll q st) := by
  simp only [State.pollEnds, List.mem_filterMap, List.mem_finRange, true_and]
  refine exists_congr fun k => ?_
  cases hq : s.poll k with
  | none => simp [State.judgedRecord]
  | some q => cases h : s.judgeSlot q <;> simp [State.judgedRecord, h, eq_comm, recordOfPoll, pollRecord]

/-- A poll that ends when judged leaves its slot, and its record is given. -/
theorem State.ends_of_judgeSlot {s : State} {k : SlotNo} {q : Poll} {st : Status} (hq : s.poll k = some q)
    (h : s.judgeSlot q = .ends st) (recs : List (Port × Completion)) :
    (s.settle recs).poll k = none ∧ (q.port, recordOfPoll q st) ∈ s.pollEnds :=
  ⟨State.poll_settle_ends hq h recs, State.mem_pollEnds.mpr ⟨k, q, st, hq, h, rfl⟩⟩

/-- Each record of judging is that of a poll that left its slot. -/
theorem State.freed_of_mem_pollEnds {s : State} {z : Port × Completion} (h : z ∈ s.pollEnds)
    (recs : List (Port × Completion)) :
    ∃ k q st, s.poll k = some q ∧ (s.settle recs).poll k = none ∧ z = (q.port, recordOfPoll q st) := by
  obtain ⟨k, q, st, hq, hv, hz⟩ := State.mem_pollEnds.mp h
  exact ⟨k, q, st, hq, State.poll_settle_ends hq hv recs, hz⟩

/-- There are as many records as slots that judging frees. -/
theorem State.length_pollEnds (s : State) (recs : List (Port × Completion)) :
    s.pollEnds.length = (List.finRange 6).countP fun k => (s.poll k).isSome && ((s.settle recs).poll k).isNone := by
  simp [State.pollEnds, List.length_filterMap_eq_countP, State.isSome_judgedRecord]

/-! ### Judging the heads -/

/-- A port after judging: records have joined its queue, each using a credit, and its head's timer and mark are those of
judging. -/
theorem State.port_settle_eq (s : State) (recs : List (Port × Completion)) (p : Port) :
    (s.settle recs).port p = { s.port p with
      completions := (s.port p).completions ++ arrange (4 * s.freeCount + p.val) (recordsFor (recs ++ s.pollEnds) p)
      credits := (s.port p).credits - (recordsFor (recs ++ s.pollEnds) p).length
      deferral := (s.judgedPort p (s.port p)).deferral
      lockedMark := (s.judgedPort p (s.port p)).lockedMark } := by
  rw [State.port_settle, State.judgedPort_eq]

/-- A head that a lock holds back, and whose outcome is not fixed, is judged by its wait limit (R58). -/
theorem State.judgedPort_held {s : State} {p : Port} {r : Request} {rest : List Request}
    (hq : (s.port p).requests = r :: rest) (hheld : s.heldBack p r) (hm : (s.port p).lockedMark = false) :
    s.judgedPort p (s.port p) = if r.waitLimit = 0 then { s.port p with lockedMark := true }
      else { s.port p with deferral := some ((s.port p).deferral.getD 0) } := by
  have hb := (State.headBlocked_iff hq).mpr hheld
  generalize s.port p = u at hq hm ⊢
  obtain ⟨_, _, _, _, _, _, _, _, _, _, d, _⟩ := u
  obtain rfl : _ = _ := hq
  obtain rfl : _ = _ := hm
  cases d <;> simp [State.judgedPort, hb]

/-- A head that is marked, or that nothing holds back, is left by judging. -/
theorem State.judgedPort_left {s : State} {p : Port}
    (h : (s.port p).lockedMark = true ∨ ∀ r, (s.port p).requests.head? = some r → ¬ s.heldBack p r) :
    s.judgedPort p (s.port p) = s.port p := by
  rcases h with hm | hfree
  · unfold State.judgedPort
    cases (s.port p).requests.head? <;> simp [hm]
  · cases hq : (s.port p).requests with
    | nil => simp [State.judgedPort, hq]
    | cons r rest =>
      refine State.judgedPort_unblocked ?_ _
      exact Bool.eq_false_iff.mpr fun hb => hfree r (by simp [hq]) ((State.headBlocked_iff hq).mp hb)

/-- Judging treats a head as R58 says. -/
theorem State.headJudged_judgedPort (s : State) (p : Port) :
    s.headJudged p (s.port p).requests.head? (s.port p).deferral (s.port p).lockedMark
      (s.judgedPort p (s.port p)).deferral (s.judgedPort p (s.port p)).lockedMark := by
  refine ⟨fun r hr hheld hm h0 => ?_, fun r hr hheld hm h0 => ?_, fun h => ?_⟩
  · obtain ⟨rest, hq⟩ := List.head?_eq_some_iff.mp hr
    rw [State.judgedPort_held hq hheld hm, if_pos h0]
    exact ⟨rfl, rfl⟩
  · obtain ⟨rest, hq⟩ := List.head?_eq_some_iff.mp hr
    rw [State.judgedPort_held hq hheld hm, if_neg h0]
    exact ⟨rfl, hm⟩
  · rw [State.judgedPort_left h]
    exact ⟨rfl, rfl⟩

/-- Settles O30: the heads by R58, each slot by what judging makes of it, and the records by the slots freed. -/
theorem judgingFollowsLocksAndHealth : Obligations.JudgingFollowsLocksAndHealth := by
  intro s recs
  refine ⟨_, _, rfl, rfl, fun p => ?ports, fun p => ?heads, fun k hk => by simp [hk], fun k q hq => ?slots,
    fun z hz => State.freed_of_mem_pollEnds hz recs, s.length_pollEnds recs, ?frame⟩
  case ports =>
    refine ⟨_, _, ?_, arrange_perm (4 * s.freeCount + p.val) (recordsFor (recs ++ s.pollEnds) p), rfl⟩
    rw [State.port_settle_eq, length_arrange]
  case heads =>
    rw [State.port_settle_eq]
    exact s.headJudged_judgedPort p
  case slots =>
    refine ⟨fun h => State.poll_settle_keep hq (State.judgeSlot_idle h) recs,
      fun h hl => State.poll_settle_keep hq (State.judgeSlot_blocked h hl) recs, fun h => ?_⟩
    have hj := State.judgeSlot_judged h
    refine ⟨fun ha => State.ends_of_judgeSlot hq (hj.trans (State.judgeDue_absent ha)) recs,
      fun ha hf => State.ends_of_judgeSlot hq (hj.trans (State.judgeDue_faulted ha hf)) recs,
      fun ha hf hl => ?locked,
      fun ha hf hl => State.poll_settle_keep hq (hj.trans (State.judgeDue_free ha hf hl)) recs⟩
    case locked =>
      have hv := hj.trans (State.judgeDue_locked ha hf hl)
      exact ⟨fun h0 => State.ends_of_judgeSlot hq (hv.trans (if_pos h0)) recs,
        fun h0 => State.poll_settle_keep hq (hv.trans (if_neg h0)) recs⟩
  case frame =>
    rw [State.settle_eq]
    simp

end Sys2Proof.Machine

/-! SUPPORT. What the reading of the wires keeps, the bus candidates, and the arbiter's search. -/

namespace Sys2Proof.Machine

/-! ### Reading the wires: what it keeps -/

/-- What every sample keeps, a list of samples keeps. -/
theorem Engine.feed_keeps {P : Engine → Prop} (sample : ∀ e b, P e → P (e.sample b)) (l : List Bool) {e : Engine}
    (h : P e) : P (Engine.feed l e).1 := by
  induction l generalizing e with
  | nil => exact h
  | cons b bs ih =>
    cases hd : e.driving with
    | true => rw [Engine.feed_driving hd]; exact ih (sample e b h)
    | false => rw [Engine.feed_still hd]; exact h

/-- What every sample and every change of the stretch timer keep, the reading of the wires keeps. -/
theorem Engine.reads_keeps {P : Engine → Prop} (stretch : ∀ e st, P e → P { e with stretch := st })
    (sample : ∀ e b, P e → P (e.sample b)) (l : List Bool) {e : Engine} (h : P e) : P (e.reads l).1 := by
  unfold Engine.reads
  split
  · exact Engine.feed_keeps sample l (stretch e none h)
  · exact h

/-- The same of the engine after a command that hands samples on. -/
theorem State.busRuns_keeps {P : Engine → Prop} (stretch : ∀ e st, P e → P { e with stretch := st })
    (sample : ∀ e b, P e → P (e.sample b)) {s : State} (l : List Bool) (m : Bool) (h : P s.engine) :
    P (s.busRuns l m).engine :=
  stretch _ _ (Engine.reads_keeps stretch sample l h)

/-- The part of the engine that no sample touches. -/
theorem Engine.sample_frame (e : Engine) (b : Bool) : (e.sample b).busState = e.busState
    ∧ (e.sample b).retry = e.retry ∧ (e.sample b).fault = e.fault ∧ (e.sample b).speed = e.speed := by
  unfold Engine.sample
  split
  · exact ⟨rfl, rfl, rfl, rfl⟩
  · split
    · exact ⟨rfl, rfl, rfl, rfl⟩
    · split <;> exact ⟨rfl, rfl, rfl, rfl⟩

/-- The part of the engine that the samples handed on do not touch. -/
theorem State.busRuns_frame (s : State) (l : List Bool) (m : Bool) :
    (s.busRuns l m).engine.busState = s.engine.busState ∧ (s.busRuns l m).engine.retry = s.engine.retry
      ∧ (s.busRuns l m).engine.fault = s.engine.fault ∧ (s.busRuns l m).engine.speed = s.engine.speed := by
  refine State.busRuns_keeps (P := fun e => e.busState = s.engine.busState ∧ e.retry = s.engine.retry
    ∧ e.fault = s.engine.fault ∧ e.speed = s.engine.speed) (fun _ _ h => h) (fun e b ⟨hb, hr, hf, hs⟩ => ?_) l m
    ⟨rfl, rfl, rfl, rfl⟩
  obtain ⟨hb', hr', hf', hs'⟩ := e.sample_frame b
  exact ⟨hb'.trans hb, hr'.trans hr, hf'.trans hf, hs'.trans hs⟩

@[simp] theorem State.busState_busRuns (s : State) (l : List Bool) (m : Bool) :
    (s.busRuns l m).engine.busState = s.engine.busState := (s.busRuns_frame l m).1

/-- Handing samples on changes the engine alone. -/
theorem State.busRuns_eq (s : State) (l : List Bool) (m : Bool) :
    s.busRuns l m = s.setEngine (s.busRuns l m).engine := rfl

/-! ### The candidates -/

/-- The bus kinds (R23). -/
theorem isBusKind_iff {k : Kind} :
    isBusKind k = true ↔ k ∈ ([.read, .write, .send, .recv, .probe] : List Kind) := by
  cases k <;> simp [isBusKind]

/-- A head of a bus kind is held back exactly by another port's lock on its entry (R58). -/
theorem State.heldBack_of_busKind {s : State} {p : Port} {r : Request} {e : EntryNo}
    (hk : r.kind ∈ ([.read, .write, .send, .recv, .probe] : List Kind)) (he : entryOfByte r.entry = some e) :
    s.heldBack p r ↔ s.lockedAgainst e p := by
  have hd : r.kind ∈ ([.read, .write, .send, .recv, .probe, .lock] : List Kind) := by
    simp only [List.mem_cons] at hk ⊢
    tauto
  constructor
  · rintro ⟨-, e', he', hl⟩
    obtain rfl : e' = e := Option.some.inj (he'.symm.trans he)
    exact hl
  · exact fun hl => ⟨hd, e, he, hl⟩

/-- The candidate at a port's position (R55): its ready head, of a bus kind, on an entry that is not ABSENT unless the
head is a PROBE. -/
theorem State.portCandidate_eq_some {s : State} {p : Port} {r : Request} {e : EntryNo} {x : Entry} :
    s.portCandidate p = some (r, e, x) ↔ s.readyHead p = some r ∧ isBusKind r.kind = true
      ∧ entryOfByte r.entry = some e ∧ s.entry e = some x ∧ (x.nackCount ≠ 3 ∨ r.kind = .probe) := by
  constructor
  · intro h
    unfold State.portCandidate at h
    cases hr : s.readyHead p with
    | none => simp [hr] at h
    | some r' =>
      simp only [hr] at h
      cases he : entryOfByte r'.entry with
      | none => simp [he] at h
      | some e' =>
        simp only [he] at h
        cases hx : s.entry e' with
        | none => simp [hx] at h
        | some x' =>
          simp only [hx] at h
          split at h
          next hc =>
            obtain ⟨hk, ha⟩ := hc
            cases h
            exact ⟨rfl, hk, he, hx, by simpa [Entry.absent] using ha⟩
          next => cases h
  · rintro ⟨hr, hk, he, hx, ha⟩
    have ha' : x.absent = false ∨ r.kind = .probe := by simpa [Entry.absent] using ha
    simp only [State.portCandidate, hr, he, hx, if_pos (And.intro hk ha')]

/-- A port's position has a candidate exactly when its head is one. -/
theorem State.hasCandidate_port {s : State} {p : Port} : s.hasCandidate (.port p) = true ↔ s.headIsCandidate p := by
  rw [State.hasCandidate, Option.isSome_iff_exists]
  constructor
  · rintro ⟨⟨r, e, x⟩, h⟩
    obtain ⟨hready, hk, he, hx, ha⟩ := State.portCandidate_eq_some.mp h
    obtain ⟨⟨rest, hr⟩, hheld⟩ := State.readyHead_eq_some.mp hready
    exact ⟨r, rest, e, x, hr, isBusKind_iff.mp hk, entryOfByte_eq_some.mp he, hx, ha,
      mt (State.heldBack_of_busKind (isBusKind_iff.mp hk) he).mpr hheld⟩
  · rintro ⟨r, rest, e, x, hr, hk, he, hx, ha, hl⟩
    have he' := entryOfByte_eq_some.mpr he
    exact ⟨(r, e, x), State.portCandidate_eq_some.mpr ⟨State.readyHead_eq_some.mpr
      ⟨⟨rest, hr⟩, mt (State.heldBack_of_busKind hk he').mp hl⟩, isBusKind_iff.mpr hk, he', hx, ha⟩⟩

/-- What the search of some slots, in ascending order, comes to: the candidate with the earliest next-due time, ties to
the lower slot, or none without a candidate (R55, R90). -/
def State.earliestOf (s : State) (l : List SlotNo) : Option SlotNo → Prop
  | none => ∀ j ∈ l, s.slotMayRun j = none
  | some k => ∃ q, s.slotMayRun k = some q ∧ ∀ j ∈ l, ∀ q', s.slotMayRun j = some q' →
      q.nextDue < q'.nextDue ∨ (q.nextDue = q'.nextDue ∧ k ≤ j)

/-- One more slot, higher than the one found, leaves the earlier of the two. -/
theorem State.earliestOf_snoc {s : State} {l : List SlotNo} {best : Option SlotNo} {k : SlotNo}
    (h : s.earliestOf l best) (hk : ∀ b ∈ best, b < k) : s.earliestOf (l ++ [k]) (earlierSlot s best k) := by
  have hmem : ∀ {j}, j ∈ l ++ [k] ↔ j ∈ l ∨ j = k := by simp
  unfold earlierSlot
  cases hq : s.slotMayRun k with
  | none =>
    cases best with
    | none => exact fun j hj => (hmem.mp hj).elim (h j) fun hj => hj ▸ hq
    | some b =>
      obtain ⟨qb, hb, hmin⟩ := h
      refine ⟨qb, hb, fun j hj q' hq' => (hmem.mp hj).elim (fun hj => hmin j hj q' hq') fun hj => ?_⟩
      subst hj
      cases hq.symm.trans hq'
  | some q =>
    cases best with
    | none =>
      refine ⟨q, hq, fun j hj q' hq' => (hmem.mp hj).elim (fun hj => ?_) fun hj => ?_⟩
      · cases (h j hj).symm.trans hq'
      · subst hj
        cases hq.symm.trans hq'
        exact .inr ⟨rfl, le_rfl⟩
    | some b =>
      obtain ⟨qb, hb, hmin⟩ := h
      simp only [hb]
      split
      next hlt =>
        refine ⟨q, hq, fun j hj q' hq' => (hmem.mp hj).elim (fun hj => ?_) fun hj => ?_⟩
        · have := hmin j hj q' hq'
          left
          omega
        · subst hj
          cases hq.symm.trans hq'
          exact .inr ⟨rfl, le_rfl⟩
      next hge =>
        refine ⟨qb, hb, fun j hj q' hq' => (hmem.mp hj).elim (fun hj => hmin j hj q' hq') fun hj => ?_⟩
        subst hj
        cases hq.symm.trans hq'
        have hbk := hk b rfl
        rcases Nat.lt_or_eq_of_le (Nat.not_lt.mp hge) with hlt | heq
        · exact .inl hlt
        · exact .inr ⟨heq, le_of_lt hbk⟩

/-- The slot found is the one before, or the one looked at. -/
theorem mem_earlierSlot {s : State} {best : Option SlotNo} {k b : SlotNo} (h : b ∈ earlierSlot s best k) :
    b ∈ best ∨ b = k := by
  unfold earlierSlot at h
  split at h
  · exact .inl h
  · exact .inr (Option.some.inj h).symm
  · split at h
    · exact .inr (Option.some.inj h).symm
    · split at h
      · exact .inr (Option.some.inj h).symm
      · exact .inl h

/-- The search of an ascending list finds its earliest slot. -/
theorem State.earliestOf_foldl (s : State) (l : List SlotNo) (hl : l.Pairwise (· < ·)) :
    s.earliestOf l (l.foldl (earlierSlot s) none) ∧ ∀ k ∈ l.foldl (earlierSlot s) none, k ∈ l := by
  induction l using List.reverseRecOn with
  | nil => exact ⟨by simp [State.earliestOf], by simp⟩
  | append_singleton l k ih =>
    obtain ⟨hl, -, hk⟩ := List.pairwise_append.mp hl
    obtain ⟨ih, hmem⟩ := ih hl
    simp only [List.foldl_append, List.foldl_cons, List.foldl_nil]
    refine ⟨State.earliestOf_snoc ih fun b hb => hk b (hmem b hb) k (by simp), fun b hb => ?_⟩
    rcases mem_earlierSlot hb with hb | rfl
    · exact List.mem_append_left _ (hmem b hb)
    · simp

/-- The candidate at P is the earliest of all slots. -/
theorem State.earliestOf_pollCandidate (s : State) : s.earliestOf (List.finRange 6) s.pollCandidate :=
  (s.earliestOf_foldl (List.finRange 6) (by decide)).1

/-- Position P has a candidate exactly when some slot is one. -/
theorem State.hasCandidate_poll {s : State} : s.hasCandidate .poll = true ↔ ∃ k q, s.slotIsCandidate k q := by
  have h := s.earliestOf_pollCandidate
  rw [State.hasCandidate]
  cases hc : s.pollCandidate with
  | none =>
    rw [hc] at h
    simp only [Option.isSome_none, Bool.false_eq_true, false_iff, not_exists]
    intro k q hk
    have := h k (List.mem_finRange k)
    rw [State.slotMayRun_eq_some.mpr hk] at this
    cases this
  | some k =>
    rw [hc] at h
    obtain ⟨q, hq, -⟩ := h
    exact iff_of_true rfl ⟨k, q, State.slotMayRun_eq_some.mp hq⟩

/-- The slot with the earliest next-due time, ties to the lower slot, is the candidate at P. -/
theorem State.pollCandidate_of_earliest {s : State} {k : SlotNo} {q : Poll} (hk : s.slotIsCandidate k q)
    (hmin : ∀ j q', s.slotIsCandidate j q' → q.nextDue < q'.nextDue ∨ (q.nextDue = q'.nextDue ∧ k ≤ j)) :
    s.pollCandidate = some k := by
  have hq := State.slotMayRun_eq_some.mpr hk
  have h := s.earliestOf_pollCandidate
  cases hc : s.pollCandidate with
  | none =>
    rw [hc] at h
    rw [h k (List.mem_finRange k)] at hq
    cases hq
  | some k' =>
    rw [hc] at h
    obtain ⟨q', hq', hmin'⟩ := h
    have h1 := hmin k' q' (State.slotMayRun_eq_some.mp hq')
    have h2 := hmin' k (List.mem_finRange k) q hq
    have : k' = k := by
      rw [Fin.ext_iff]
      simp only [Fin.le_def] at h1 h2
      omega
    rw [this]

/-! ### The search -/

/-- The first element of a list that meets `P` is one that meets it with none before it. -/
theorem find?_eq_some_iff_takeWhile {α : Type} [DecidableEq α] {P : α → Bool} {a : α} {l : List α} :
    l.find? P = some a ↔ P a = true ∧ a ∈ l ∧ ∀ b ∈ l.takeWhile (fun c => c ≠ a), P b = false := by
  induction l with
  | nil => simp
  | cons c l ih =>
    by_cases hca : c = a
    · subst hca
      cases hc : P c with
      | true => simp [hc]
      | false => simpa [hc] using fun h => by simpa [hc] using List.find?_some h
    · cases hc : P c <;> simp_all [Ne.symm hca]

/-- The search reaches every position. -/
theorem mem_turnOrder (t pos : Position) : pos ∈ turnOrder t := by
  cases t with
  | poll => cases pos with
    | poll => decide
    | port p => revert p; decide
  | port q => cases pos with
    | poll => revert q; decide
    | port p => revert p q; decide

/-- The arbiter's choice (R56). -/
theorem State.grantChoice_eq_some {s : State} {won : Position} :
    s.grantChoice = some won ↔ s.phase = .run ∧ s.engine.busState = .ready ∧ s.hasCandidate won = true
      ∧ ∀ pos ∈ (turnOrder s.scheduler.turn).takeWhile (fun q => q ≠ won), s.hasCandidate pos = false := by
  unfold State.grantChoice
  split
  next h => simp [find?_eq_some_iff_takeWhile, h.1, h.2, mem_turnOrder]
  next h => simp only [reduceCtorEq, false_iff]; exact fun ⟨hp, hb, _⟩ => h ⟨hp, hb⟩

/-- Nothing is granted outside RUN, with an engine that is not READY, or without a candidate. -/
theorem State.grantChoice_eq_none {s : State} (h : s.phase ≠ .run ∨ s.engine.busState ≠ .ready
    ∨ ∀ pos, s.hasCandidate pos = false) : s.grantChoice = none := by
  refine Option.eq_none_iff_forall_ne_some.mpr fun won hw => ?_
  obtain ⟨hp, hb, hc, -⟩ := State.grantChoice_eq_some.mp hw
  rcases h with h | h | h
  · exact h hp
  · exact h hb
  · simp [h won] at hc

/-- A position that the search passed over lies nearer to the pointer once another has won. -/
theorem turnOrder_nearer {turn won pos : Position} (hne : won ≠ pos)
    (h : pos ∉ (turnOrder turn).takeWhile (fun q => q ≠ won)) :
    (turnOrder won).findIdx (fun q => q = pos) < (turnOrder turn).findIdx (fun q => q = pos)
      ∧ (turnOrder turn).findIdx (fun q => q = pos) < 5 := by
  cases turn with
  | poll => cases won with
    | poll => cases pos with
      | poll => exact absurd rfl hne
      | port p => revert p; decide
    | port w => cases pos with
      | poll => revert w; decide
      | port p => revert w p; decide
  | port q => cases won with
    | poll => cases pos with
      | poll => exact absurd rfl hne
      | port p => revert q p; decide
    | port w => cases pos with
      | poll => revert q w; decide
      | port p => revert q w p; decide

/-- The search goes round U0, U1, U2, U3, P. -/
theorem turnOrder_cycle {cycle : Nat → Position}
    (h : ∀ n, cycle n = [Position.port 0, .port 1, .port 2, .port 3, .poll].getD (n % 5) .poll) (n : Nat) :
    turnOrder (cycle n) = [cycle (n + 1), cycle (n + 2), cycle (n + 3), cycle (n + 4), cycle (n + 5)] := by
  simp only [h, Nat.add_mod n]
  have hn : n % 5 < 5 := Nat.mod_lt _ (by decide)
  generalize n % 5 = m at hn
  revert m
  decide

end Sys2Proof.Machine

/-! SUPPORT. GRANT: what it moves and what it puts on the bus, and the statements about it. -/

namespace Sys2Proof.Machine

/-! ### The grant -/

/-- GRANT starts what the arbiter chooses, and nothing without a choice. -/
theorem exec_grant (s : State) (bus : BusRead) :
    exec (.grant bus) s = .next (match s.grantChoice with
      | none => s
      | some pos => (s.grantAt pos).busRuns bus.samples bus.mckLow) := rfl

/-- The grant of a port's position is that of its candidate. -/
theorem State.grantAt_port {s : State} {p : Port} {r : Request} {e : EntryNo} {x : Entry}
    (h : s.portCandidate p = some (r, e, x)) : s.grantAt (.port p) = s.grantPort p r e x := by
  simp only [State.grantAt, h]

/-- The grant of position P is that of its candidate. -/
theorem State.grantAt_poll {s : State} {k : SlotNo} {q : Poll} {x : Entry} (h : s.pollCandidate = some k)
    (hq : s.poll k = some q) (hx : s.entry q.entry = some x) : s.grantAt .poll = s.grantPoll k q x := by
  simp only [State.grantAt, h, hq, hx]

/-- A grant moves the turn pointer to the position it goes to, and makes the engine BUSY (R56, R107). -/
theorem State.grantAt_moves {s : State} {pos : Position} (h : s.hasCandidate pos = true) :
    (s.grantAt pos).scheduler.turn = pos ∧ (s.grantAt pos).engine.busState = .busy := by
  cases pos with
  | port p =>
    obtain ⟨⟨r, e, x⟩, hc⟩ := Option.isSome_iff_exists.mp h
    rw [State.grantAt_port hc]
    simp [State.grantPort, Engine.start]
  | poll =>
    obtain ⟨k, hc⟩ := Option.isSome_iff_exists.mp h
    have hk := s.earliestOf_pollCandidate
    rw [hc] at hk
    obtain ⟨q, hrun, -⟩ := hk
    obtain ⟨hq, -, hx, -⟩ := State.slotMayRun_eq_some.mp hrun
    obtain ⟨x, hx⟩ := Option.isSome_iff_exists.mp hx
    rw [State.grantAt_poll hc hq hx]
    simp [State.grantPoll, Engine.start]

/-- Settles O39: the search is read off the candidates and the cyclic order, and passing over a position brings the
pointer nearer to it. -/
theorem arbiterIsFair : Obligations.ArbiterIsFair := by
  refine ⟨fun s => ⟨fun p => State.hasCandidate_port, State.hasCandidate_poll, fun won => State.grantChoice_eq_some,
    fun h bus => ?nothing⟩, fun cycle h n => turnOrder_cycle h n, fun s won hw => ?fair⟩
  case nothing => rw [exec_grant, State.grantChoice_eq_none h]
  case fair =>
    obtain ⟨-, -, hc, hbefore⟩ := State.grantChoice_eq_some.mp hw
    refine ⟨hc, fun bus => ⟨_, by rw [exec_grant, hw], ?_, ?_⟩, fun pos hpos hne => turnOrder_nearer hne fun hmem => ?_⟩
    · exact (State.grantAt_moves hc).1
    · rw [State.busState_busRuns]
      exact (State.grantAt_moves hc).2
    · simp [hbefore pos hmem] at hpos

/-! ### What a grant puts on the bus -/

/-- The index bytes of an index, which the entry's type may mask first (R4, R106). -/
theorem indexBytesOf_eq (t : EntryType) (i : BitVec 16) : indexBytesOf t i = indexOnWire t i := by
  cases t with
  | byte => rfl
  | indexed8 => simp only [indexBytesOf, indexOnWire, BitVec.ofNat_toNat]
  | indexed16 =>
    have hhigh : i.extractLsb' 8 8 = BitVec.ofNat 8 (i.toNat / 256) := by
      apply BitVec.eq_of_toNat_eq
      simp [Nat.shiftRight_eq_div_pow]
    simp only [indexBytesOf, indexOnWire, BitVec.ofNat_toNat, hhigh]

/-- The effective index has the same index bytes as the index carried (R4). -/
theorem indexBytesOf_effectiveIndex (t : EntryType) (i : BitVec 16) :
    indexBytesOf t (effectiveIndex t i) = indexOnWire t i := by
  cases t with
  | byte => rfl
  | indexed8 =>
    have hlow : (i &&& 0x00FF#16).setWidth 8 = BitVec.ofNat 8 i.toNat := by
      apply BitVec.eq_of_toNat_eq
      have : i.toNat % 256 &&& 255 = i.toNat % 256 % 256 := Nat.and_two_pow_sub_one_eq_mod (i.toNat % 256) 8
      simp [this]
    simp [indexBytesOf, effectiveIndex, indexOnWire, hlow]
  | indexed16 => exact indexBytesOf_eq .indexed16 i

/-- The lease of an entry, reloaded for its owner (R69, R79). -/
theorem State.reloadIfOwner_eq {s : State} {e : EntryNo} {x : Entry} (hx : s.entry e = some x) (p : Port) :
    s.reloadIfOwner e p = s.setEntry e
      (some (if x.owner = some p then { x with leaseRemaining := x.leaseValue * 4 } else x)) := by
  simp [State.reloadIfOwner, State.modEntry, hx, Entry.reload]

/-- A transaction started on a bus that was not FAULTED: judging sees no difference, and the engine then reads the
wires. -/
theorem State.busRuns_start {s : State} (h : s.engine.busState ≠ .faulted) (t : Transaction) (l : List Bool)
    (m : Bool) :
    ((s.setEngine (s.engine.start t)).settle []).busRuns l m
      = (s.settle []).setEngine (((s.engine.start t).reads l).1.stretchAfter m) := by
  rw [State.settle_setEngine s (s.engine.start t) [] (by simp [h, Engine.start])]
  rfl

/-- A transaction that has started keeps the engine BUSY whatever it reads. -/
theorem Engine.busState_start (e : Engine) (t : Transaction) (l : List Bool) (m : Bool) :
    (((e.start t).reads l).1.stretchAfter m).busState = .busy :=
  Engine.reads_keeps (P := fun e => e.busState = .busy) (fun _ _ h => h)
    (fun e b h => (e.sample_frame b).1.trans h) l rfl

/-- Settles O37: the port's candidate wins the search, and its transaction is that of the request's kind. -/
theorem grantStartsPortTransaction : Obligations.GrantStartsPortTransaction := by
  intro s p r rest e x bus hready hheld hk he hx ha hbus hbefore
  obtain ⟨hrun, -, hqueue, -⟩ := id hready
  have hcand : s.portCandidate p = some (r, e, x) := State.portCandidate_eq_some.mpr
    ⟨State.readyHead_eq_some.mpr ⟨⟨rest, hready⟩, hheld⟩, isBusKind_iff.mpr hk, he, hx, ha⟩
  have hchoice : s.grantChoice = some (.port p) := State.grantChoice_eq_some.mpr
    ⟨hrun, hbus, by simp [State.hasCandidate, hcand], hbefore⟩
  refine ⟨_, ?_, rfl, Engine.busState_start _ _ _ _⟩
  rw [exec_grant, hchoice]
  simp only [State.grantAt_port hcand, State.grantPort, State.modPort_takeHead hqueue]
  rw [State.reloadIfOwner_eq (s := s.setPort p ((s.port p).headTaken rest)) hx]
  refine congrArg Host.Outcome.next ((State.busRuns_start (by simp [hbus]) _ _ _).trans ?_)
  have hkind : r.kind = .read ∨ r.kind = .write ∨ r.kind = .send ∨ r.kind = .recv ∨ r.kind = .probe := by simpa using hk
  rcases hkind with hkind | hkind | hkind | hkind | hkind <;>
    simp only [requestTransaction, hkind, indexBytesOf_effectiveIndex] <;> rfl

/-- Settles O38: the slot is the earliest candidate at P, where the search has found none before. -/
theorem grantStartsPollIteration : Obligations.GrantStartsPollIteration := by
  intro s k q x bus hrun hbus hq hdue hx ha howner hmin hbefore
  have hslot : s.slotIsCandidate k q := by
    refine ⟨hq, hdue, by simp [hx], fun ⟨y, hy, h3⟩ => ?_, fun ⟨y, o, hy, ho, hne⟩ => ?_⟩
    · cases hx.symm.trans hy
      exact ha h3
    · cases hx.symm.trans hy
      rcases howner with h | h
      · cases h.symm.trans ho
      · cases h.symm.trans ho
        exact hne rfl
  have hcand := State.pollCandidate_of_earliest hslot hmin
  have hchoice : s.grantChoice = some .poll := State.grantChoice_eq_some.mpr
    ⟨hrun, hbus, by simp [State.hasCandidate, hcand], hbefore⟩
  refine ⟨_, ?_, rfl, Engine.busState_start _ _ _ _⟩
  rw [exec_grant, hchoice]
  simp only [State.grantAt_poll hcand hq hx, State.grantPoll]
  rw [State.reloadIfOwner_eq (x := x) (by simpa using hx)]
  refine congrArg Host.Outcome.next ((State.busRuns_start (by simp [hbus]) _ _ _).trans ?_)
  rw [pollTransaction, indexBytesOf_eq]
  rfl

end Sys2Proof.Machine

/-! SUPPORT. What the engine's work keeps under the samples handed on, and what judging after a change of the bus shows. -/

namespace Sys2Proof.Machine

/-! ### What the samples handed on leave of the engine's work -/

/-- An engine that does not drive the bus takes no sample, and no stretch stands. -/
theorem State.busRuns_still {s : State} (h : s.engine.driving = false) (l : List Bool) (m : Bool) :
    (s.busRuns l m).engine = { s.engine with stretch := none } := by
  simp [State.busRuns, Engine.reads, Engine.stretchAfter, h]

/-- With no sample left the engine's work stands; only a stretch may begin or end. -/
theorem State.busRuns_nil (s : State) (m : Bool) : s.busRuns [] m = s.setEngine (s.engine.stretchAfter m) := by
  simp [State.busRuns]

/-- A recovery keeps its cause whatever it reads. -/
theorem Recovery.cause_sample (r : Recovery) (b : Bool) : (r.sample b).cause = r.cause := by
  unfold Recovery.sample
  cases r.stage with
  | settling => simp only; split <;> rfl
  | pulsing | stopping =>
    simp only
    split
    · rfl
    · split <;> rfl

/-- While a recovery runs the samples go to it, and the transaction that waits stays as it is (R115). -/
theorem State.busRuns_recovery {s : State} {r : Recovery} (hr : s.engine.recovery = some r) (l : List Bool) (m : Bool) :
    (s.busRuns l m).engine.transaction = s.engine.transaction
      ∧ ((s.busRuns l m).engine.recovery.any fun r' => r'.cause = r.cause) = true := by
  have key : (s.busRuns l m).engine.transaction = s.engine.transaction
      ∧ ∃ r', (s.busRuns l m).engine.recovery = some r' ∧ r'.cause = r.cause := by
    refine State.busRuns_keeps (P := fun e => e.transaction = s.engine.transaction
      ∧ ∃ r', e.recovery = some r' ∧ r'.cause = r.cause) (fun _ _ h => h) (fun e b h => ?_) l m ⟨rfl, r, hr, rfl⟩
    obtain ⟨ht, r', hr', hc⟩ := h
    simp only [Engine.sample, hr']
    exact ⟨ht, _, rfl, (r'.cause_sample b).trans hc⟩
  obtain ⟨ht, r', hr', hc⟩ := key
  exact ⟨ht, by simp [hr', hc]⟩

/-- No sample changes what the transaction was asked to do. -/
theorem Transaction.sample_asked (t : Transaction) (b : Bool) : (t.sample b).requester = t.requester
    ∧ (t.sample b).address = t.address ∧ (t.sample b).indexBytes = t.indexBytes ∧ (t.sample b).length = t.length := by
  have hshift : (t.shift b).requester = t.requester ∧ (t.shift b).address = t.address
      ∧ (t.shift b).indexBytes = t.indexBytes ∧ (t.shift b).length = t.length := by
    unfold Transaction.shift
    split <;> exact ⟨rfl, rfl, rfl, rfl⟩
  unfold Transaction.sample
  cases t.slots with
  | nil => exact ⟨rfl, rfl, rfl, rfl⟩
  | cons w rest =>
    simp only
    split
    · exact ⟨rfl, rfl, rfl, rfl⟩
    · cases w with
      | ack what => cases what <;> cases b <;> exact ⟨rfl, rfl, rfl, rfl⟩
      | recvBit => exact hshift
      | _ => exact ⟨rfl, rfl, rfl, rfl⟩

/-- The transaction on the bus stays the one that was asked for, whatever the engine reads. -/
theorem State.busRuns_asked {s : State} {t : Transaction} (ht : s.engine.transaction = some t) (l : List Bool)
    (m : Bool) : ∃ t', (s.busRuns l m).engine.transaction = some t' ∧ t'.requester = t.requester
      ∧ t'.address = t.address ∧ t'.indexBytes = t.indexBytes ∧ t'.length = t.length := by
  refine State.busRuns_keeps (P := fun e => ∃ t', e.transaction = some t' ∧ t'.requester = t.requester
    ∧ t'.address = t.address ∧ t'.indexBytes = t.indexBytes ∧ t'.length = t.length) (fun _ _ h => h)
    (fun e b h => ?_) l m ⟨t, ht, rfl, rfl, rfl, rfl⟩
  obtain ⟨t', ht', hq, ha, hi, hn⟩ := h
  obtain ⟨sq, sa, si, sn⟩ := t'.sample_asked b
  unfold Engine.sample
  cases e.recovery with
  | some r => exact ⟨t', ht', hq, ha, hi, hn⟩
  | none =>
    simp only [ht']
    split
    · exact ⟨t', rfl, hq, ha, hi, hn⟩
    · exact ⟨_, rfl, sq.trans hq, sa.trans ha, si.trans hi, sn.trans hn⟩

/-! ### Judging after the bus has changed -/

/-- Records that join, heads and slots that are judged, and an engine that then reads on: judged as the engine is. -/
theorem State.judgedInto_busRuns (u : State) (e : Engine) (recs : List (Port × Completion)) (l : List Bool) (m : Bool) :
    u.judgedInto (((u.setEngine e).settle recs).busRuns l m) recs := by
  have hb : (((u.setEngine e).settle recs).busRuns l m).engine.busState = e.busState := by simp
  generalize hE : (((u.setEngine e).settle recs).busRuns l m).engine = E at hb
  rw [State.judgedInto, hE, State.busRuns_eq, hE]
  exact (State.settle_setEngine (u.setEngine e) E recs (by rw [hb, State.engine_setEngine])).symm

/-- A record for a port is one given with the port. -/
@[simp] theorem mem_recordsFor {recs : List (Port × Completion)} {p : Port} {rec : Completion} :
    rec ∈ recordsFor recs p ↔ (p, rec) ∈ recs := by
  simp [recordsFor]

/-- The Notify Unit does not take part in judging. -/
@[simp] theorem State.notify_settle (s : State) (recs : List (Port × Completion)) (p : Port) :
    ((s.settle recs).port p).notify = (s.port p).notify := by rw [State.port_settle_eq]

/-- The records that join a queue when heads and slots are judged. -/
theorem State.completions_judgedInto {u t : State} {recs : List (Port × Completion)} (h : u.judgedInto t recs)
    (p : Port) : ∃ more, (t.port p).completions = (u.port p).completions ++ more
      ∧ ∀ rec, rec ∈ more ↔ (p, rec) ∈ recs ++ (u.setEngine t.engine).pollEnds := by
  refine ⟨_, (congrArg (fun x => (x.port p).completions) h).trans (by rw [State.port_settle_eq]; rfl), fun rec => ?_⟩
  rw [(arrange_perm _ _).mem_iff, mem_recordsFor]

/-- A record given joins its port's queue. -/
theorem State.recordJoins_of_judgedInto {s u t : State} {recs : List (Port × Completion)} (h : u.judgedInto t recs)
    {p : Port} {rec : Completion} (hc : (u.port p).completions = (s.port p).completions) (hm : (p, rec) ∈ recs) :
    s.recordJoins t p rec := by
  obtain ⟨more, hmore, hmem⟩ := State.completions_judgedInto h p
  exact ⟨more, hmore.trans (by rw [hc]), (hmem rec).mpr (List.mem_append_left _ hm)⟩

/-- With no record given only those of polls that end join. -/
theorem State.onlyPollsEnd_of_judgedInto {s u t : State} (h : u.judgedInto t []) {p : Port}
    (hc : (u.port p).completions = (s.port p).completions) (hp : ∀ k, u.poll k = s.poll k) : s.onlyPollsEnd t p := by
  obtain ⟨more, hmore, hmem⟩ := State.completions_judgedInto h p
  refine ⟨more, hmore.trans (by rw [hc]), fun rec hrec => ?_⟩
  obtain ⟨k, q, st, hq, hfree, hz⟩ := State.freed_of_mem_pollEnds ((hmem rec).mp hrec) []
  obtain ⟨rfl, rfl⟩ := Prod.mk.inj hz
  exact ⟨k, q, st, (hp k).symm.trans hq, rfl, (congrArg (fun x => x.poll k) h).trans hfree, rfl⟩

end Sys2Proof.Machine

/-! SUPPORT. The ways in which bus work ends badly: the bus FAULTED, a load fault, a transaction BUS_STUCK. -/

namespace Sys2Proof.Machine

/-! ### The bus enters FAULTED -/

/-- The engine as it enters FAULTED (R119, R120). -/
def Engine.toFaulted (e : Engine) : Engine :=
  { e with busState := .faulted, transaction := none, recovery := none, stretch := none, retry := some 0,
           fault := true }

/-- What the Notify Unit is told when the bus enters FAULTED, the fault indication having been `fault` (R120). -/
def State.tellBusFault (s : State) (fault : Bool) : State :=
  if fault = false ∧ s.phase ≠ .loading then s.raiseAll .busFault else s

/-- Entering FAULTED is what the engine does, and what the Notify Unit is told. -/
theorem State.enterFaulted_eq (s : State) (e : Engine) :
    (s.setEngine e).enterFaulted = (s.tellBusFault e.fault).setEngine e.toFaulted := by
  by_cases h : e.fault = false ∧ s.phase ≠ .loading
  · rw [State.tellBusFault, if_pos h]
    exact if_pos h
  · rw [State.tellBusFault, if_neg h]
    exact if_neg h

/-- An event raised everywhere changes the ports alone. -/
theorem State.raisedAll_raiseAll (s : State) (f : Flag) : s.raisedAll (s.raiseAll f) f :=
  ⟨fun p => by simp [State.raiseAll], rfl⟩

/-- Telling BUS_FAULT is what R120 says of it. -/
theorem State.toldBusFault_tell (s : State) (fault : Bool) : s.toldBusFault (s.tellBusFault fault) fault := by
  refine ⟨fun h => ?_, fun h => ?_⟩
  · rw [State.tellBusFault, if_pos h]
    exact s.raisedAll_raiseAll .busFault
  · exact if_neg fun ⟨hf, hp⟩ => h.elim (by simp [hf]) hp

/-- A state that shows the same BUS_FAULT flags has been told the same. -/
theorem State.busFaultTold_of_flags {s t : State} {fault : Bool}
    (h : ∀ p, hasBit (t.port p).notify.flags Flag.busFault.index
      = hasBit ((s.tellBusFault fault).port p).notify.flags Flag.busFault.index) : s.busFaultTold t fault := by
  intro p
  rw [h p, State.tellBusFault]
  split
  next hc => simp [State.raiseAll, PortUnit.hasBit_raise, hc]
  next hc => exact ⟨.inl, fun h => h.elim id fun ⟨hf, hp, _⟩ => absurd ⟨hf, hp⟩ hc⟩

/-- The engine has just entered FAULTED. -/
abbrev Engine.freshFault (e : Engine) : Prop :=
  e.busState = .faulted ∧ e.recovery = none ∧ e.transaction = none ∧ e.retry = some 0 ∧ e.fault = true

/-- On a FAULTED bus nothing is read: the engine stays as it is. -/
theorem State.freshFault_busRuns {s : State} (h : s.engine.freshFault) (l : List Bool) (m : Bool) :
    (s.busRuns l m).engine.freshFault := by
  obtain ⟨hb, hr, ht, hy, hf⟩ := h
  rw [State.busRuns_still (by simp [Engine.driving, hr, ht])]
  exact ⟨hb, hr, ht, hy, hf⟩

/-! ### A load that ends with a fault -/

/-- A port after a load fault (R145, R167). -/
theorem State.port_loadFault (s : State) (f : LoadFault) (p : Port) :
    (s.loadFault f).port p = ((s.port p).defaultSettings p).raise .loadFault := by
  simp [State.loadFault, State.raiseAll, State.raiseIn, State.port, State.mapPorts]

/-- The engine after a load fault: 100 kHz (R167). -/
theorem State.engine_loadFault (s : State) (f : LoadFault) :
    (s.loadFault f).engine = { s.engine with speed := .khz100 } := rfl

/-- A load fault raises LOAD_FAULT in every port, and no other flag. -/
theorem State.flags_loadFault (s : State) (f : LoadFault) (p : Port) (i : Fin 10) :
    hasBit ((s.loadFault f).port p).notify.flags i
      = (hasBit (s.port p).notify.flags i || decide (i = Flag.loadFault.index)) := by
  rw [State.port_loadFault, PortUnit.hasBit_raise]
  simp [PortUnit.defaultSettings]

/-- A load fault, whatever the engine does with it and reads then. -/
theorem State.loadFailed_busRuns (s : State) (f : LoadFault) (e : Engine) (l : List Bool) (m : Bool) :
    s.loadFailed (((s.setEngine e).loadFault f).busRuns l m) f := by
  refine ⟨⟨rfl, rfl, rfl, rfl, fun i => ?_, ?_, fun p => ?_⟩, fun p => ?_, rfl⟩
  · simp [State.entry, State.busRuns, State.setEngine, State.loadFault, State.raiseAll, State.raiseIn, State.mapPorts]
  · exact (State.busRuns_frame _ l m).2.2.2
  · have hp := (s.setEngine e).port_loadFault f p
    have hl := (s.setEngine e).flags_loadFault f p Flag.loadFault.index
    rw [State.busRuns_eq, State.port_setEngine, hl, hp, PortUnit.raise_eq, PortUnit.notify_raise]
    exact ⟨rfl, rfl, rfl, rfl, by simp⟩
  · rw [State.busRuns_eq, State.port_setEngine, State.port_loadFault]
    rfl

/-! ### A transaction of the scheduler that ends BUS_STUCK -/

/-- What a BUS_STUCK end of transaction `tr` does before heads and slots are judged: the state, with the current record
still in it, and the records to be appended (R64, R66, R97). -/
def State.stuckEnd (s : State) (tr : Transaction) : State × List (Port × Completion) :=
  match s.scheduler.current with
  | none => (s, [])
  | some c =>
    match c.slot with
    | none =>
      (if (c.kind = .write ∨ c.kind = .send) ∧ 1 ≤ tr.progress then s.writeNotice c.entry c.port else s,
       if c.discard then [] else [(c.port, busRecord c (tr.report .stuck))])
    | some k =>
      if c.discard then (s, [])
      else
        match s.poll k with
        | none => (s, [])
        | some q => (s.setPoll k none, [(q.port, recordOfPoll q (if q.cancelPending then .aborted else .busStuck))])

/-- Without a current record there is nothing to end. -/
theorem State.stuckEnd_none {s : State} (h : s.scheduler.current = none) (tr : Transaction) :
    s.stuckEnd tr = (s, []) := by
  simp only [State.stuckEnd, h]

/-- A request gives its write notice and its record, unless the record is to be discarded. -/
theorem State.stuckEnd_request {s : State} {c : Current} (h : s.scheduler.current = some c) (hs : c.slot = none)
    (tr : Transaction) : s.stuckEnd tr =
      (if (c.kind = .write ∨ c.kind = .send) ∧ 1 ≤ tr.progress then s.writeNotice c.entry c.port else s,
       if c.discard then [] else [(c.port, busRecord c (tr.report .stuck))]) := by
  simp only [State.stuckEnd, h, hs]

/-- A poll that is gone ends nothing. -/
theorem State.stuckEnd_vacant {s : State} {c : Current} {k : SlotNo} (h : s.scheduler.current = some c)
    (hs : c.slot = some k) (hv : c.discard = true ∨ s.poll k = none) (tr : Transaction) : s.stuckEnd tr = (s, []) := by
  simp only [State.stuckEnd, h, hs]
  rcases hv with hv | hv <;> simp [hv]

/-- A poll frees its slot and gives its record. -/
theorem State.stuckEnd_poll {s : State} {c : Current} {k : SlotNo} {q : Poll} (h : s.scheduler.current = some c)
    (hs : c.slot = some k) (hd : c.discard = false) (hq : s.poll k = some q) (tr : Transaction) :
    s.stuckEnd tr =
      (s.setPoll k none, [(q.port, recordOfPoll q (if q.cancelPending then .aborted else .busStuck))]) := by
  simp only [State.stuckEnd, h, hs, hd, hq]
  rfl

/-- The cases of a BUS_STUCK end, by what the current record says. -/
theorem State.stuckEnd_cases {P : State × List (Port × Completion) → Prop} (s : State) (tr : Transaction)
    (nothing : P (s, []))
    (request : ∀ c, s.scheduler.current = some c → c.slot = none →
      P (if (c.kind = .write ∨ c.kind = .send) ∧ 1 ≤ tr.progress then s.writeNotice c.entry c.port else s,
         if c.discard then [] else [(c.port, busRecord c (tr.report .stuck))]))
    (poll : ∀ c k q, s.scheduler.current = some c → c.slot = some k → c.discard = false → s.poll k = some q →
      P (s.setPoll k none, [(q.port, recordOfPoll q (if q.cancelPending then .aborted else .busStuck))])) :
    P (s.stuckEnd tr) := by
  cases hc : s.scheduler.current with
  | none => rwa [State.stuckEnd_none hc]
  | some c =>
    cases hs : c.slot with
    | none => rw [State.stuckEnd_request hc hs]; exact request c hc hs
    | some k =>
      cases hd : c.discard with
      | true => rwa [State.stuckEnd_vacant hc hs (.inl hd)]
      | false =>
        cases hq : s.poll k with
        | none => rwa [State.stuckEnd_vacant hc hs (.inr hq)]
        | some q => rw [State.stuckEnd_poll hc hs hd hq]; exact poll c k q hc hs hd hq

/-- What ends does not hang on the engine. -/
theorem State.stuckEnd_setEngine (s : State) (e : Engine) (tr : Transaction) :
    (s.setEngine e).stuckEnd tr = ((s.stuckEnd tr).1.setEngine e, (s.stuckEnd tr).2) := by
  unfold State.stuckEnd
  simp only [State.scheduler_setEngine, State.poll_setEngine]
  cases s.scheduler.current with
  | none => rfl
  | some c =>
    simp only
    cases c.slot with
    | none =>
      simp only
      split
      · rw [State.writeNotice, State.writeNotice, State.entry_setEngine]
        cases s.entry c.entry <;> rfl
      · rfl
    | some k =>
      simp only
      split
      · rfl
      · cases s.poll k <;> rfl

/-- A poll's answer to a BUS_STUCK report: it ends as it stands (R97). -/
theorem Poll.answer_stuck (q : Poll) (now : Time) (tr : Transaction) :
    q.answer now (tr.report .stuck) = (q, some (if q.cancelPending then .aborted else .busStuck)) := rfl

/-- The scheduler takes a BUS_STUCK report: health stands (R15), and what ends is judged without the current record. -/
theorem State.schedulerReport_stuck (s : State) (tr : Transaction) :
    s.schedulerReport (tr.report .stuck) = ((s.stuckEnd tr).1.setCurrent none).settle (s.stuckEnd tr).2 := by
  have houtcome : outcomeOf (tr.report .stuck).status = .noOutcome := rfl
  have hcount : (tr.report .stuck).count = tr.progress := rfl
  unfold State.schedulerReport
  cases hc : s.scheduler.current with
  | none =>
    rw [State.stuckEnd_none hc]
    have hsame : s.setCurrent none = s := by rw [State.setCurrent, ← hc]
    rw [hsame]
  | some c =>
    simp only
    cases hs : c.slot with
    | none =>
      rw [State.stuckEnd_request hc hs]
      simp only [State.requestReport, houtcome, hcount, State.relayHealth_noOutcome]
      split
      · rw [State.writeNotice, State.writeNotice, State.entry_setCurrent]
        cases s.entry c.entry <;> rfl
      · rfl
    | some k =>
      simp only [State.iterationReport, houtcome, State.relayHealth_noOutcome]
      cases hd : c.discard with
      | true => rw [State.stuckEnd_vacant hc hs (.inl hd)]; rfl
      | false =>
        cases hq : s.poll k with
        | none =>
          rw [State.stuckEnd_vacant hc hs (.inr hq)]
          simp [State.slotReport, hq]
        | some q =>
          rw [State.stuckEnd_poll hc hs hd hq]
          simp only [State.slotReport, State.poll_setCurrent, hq, Poll.answer_stuck]
          rfl

end Sys2Proof.Machine

/-! SUPPORT. A recovery that fails or succeeds, by its cause: who takes the outcome, and what everyone sees of it. -/

namespace Sys2Proof.Machine

/-- A write notice leaves the Completion Queues. -/
theorem State.completions_writeNotice (s : State) (e : EntryNo) (w p : Port) :
    ((s.writeNotice e w).port p).completions = (s.port p).completions := by
  cases hx : s.entry e with
  | none => simp only [State.writeNotice, hx]
  | some x =>
    rw [State.port_writeNotice hx]
    split
    · rw [PortUnit.notice, PortUnit.raise_eq]
      rfl
    · rfl

/-- A write notice raises CHANGE, and no other flag. -/
theorem State.flags_writeNotice (s : State) (e : EntryNo) (w p : Port) {i : Fin 10} (hi : i ≠ Flag.change.index) :
    hasBit ((s.writeNotice e w).port p).notify.flags i = hasBit (s.port p).notify.flags i := by
  cases hx : s.entry e with
  | none => simp only [State.writeNotice, hx]
  | some x =>
    rw [State.port_writeNotice hx]
    split
    · rw [PortUnit.notice, PortUnit.hasBit_raise]
      simp [PortUnit.modNotify, hi]
    · rfl

/-- No record has joined a queue before heads and slots are judged. -/
theorem State.completions_stuckEnd (s : State) (tr : Transaction) (p : Port) :
    ((s.stuckEnd tr).1.port p).completions = (s.port p).completions := by
  refine s.stuckEnd_cases tr (P := fun z => (z.1.port p).completions = (s.port p).completions) rfl
    (fun c _ _ => ?_) (fun _ _ _ _ _ _ _ => rfl)
  simp only
  split
  · exact s.completions_writeNotice c.entry c.port p
  · rfl

/-- A BUS_STUCK end raises CHANGE at most. -/
theorem State.flags_stuckEnd (s : State) (tr : Transaction) (p : Port) {i : Fin 10} (hi : i ≠ Flag.change.index) :
    hasBit ((s.stuckEnd tr).1.port p).notify.flags i = hasBit (s.port p).notify.flags i := by
  refine s.stuckEnd_cases tr (P := fun z => hasBit (z.1.port p).notify.flags i = hasBit (s.port p).notify.flags i) rfl
    (fun c _ _ => ?_) (fun _ _ _ _ _ _ _ => rfl)
  simp only
  split
  · exact s.flags_writeNotice c.entry c.port p hi
  · rfl

/-- A BUS_STUCK end leaves the directory (R15, R16). -/
theorem State.entry_stuckEnd (s : State) (tr : Transaction) (e : EntryNo) : (s.stuckEnd tr).1.entry e = s.entry e := by
  refine s.stuckEnd_cases tr (P := fun z => z.1.entry e = s.entry e) rfl (fun c _ _ => ?_) (fun _ _ _ _ _ _ _ => rfl)
  simp only
  split
  · rw [State.writeNotice_eq]
    rfl
  · rfl

/-- A transaction whose record is to be discarded gives none and leaves the Poll Table (R66, R137). -/
theorem State.stuckEnd_discarded {s : State} {c : Current} (h : s.scheduler.current = some c) (hd : c.discard = true)
    (tr : Transaction) : (s.stuckEnd tr).2 = [] ∧ ∀ k, (s.stuckEnd tr).1.poll k = s.poll k := by
  cases hs : c.slot with
  | none =>
    rw [State.stuckEnd_request h hs]
    refine ⟨by simp [hd], fun k => ?_⟩
    simp only
    split
    · rw [State.writeNotice_eq]
      rfl
    · rfl
  | some k => rw [State.stuckEnd_vacant h hs (.inl hd)]; exact ⟨rfl, fun _ => rfl⟩

/-- A BUS_STUCK end, judged: what the manual says of it (R64 to R66, R97). -/
theorem State.endsStuck_of_judgedInto {s t : State} {tr : Transaction}
    (h : ((s.stuckEnd tr).1.setCurrent none).judgedInto t (s.stuckEnd tr).2) : s.endsStuck t tr := by
  have hjoin : ∀ {p rec}, (p, rec) ∈ (s.stuckEnd tr).2 → s.recordJoins t p rec := fun hm =>
    State.recordJoins_of_judgedInto h (s.completions_stuckEnd tr _) hm
  have hcurrent : t.scheduler.current = none :=
    (congrArg (fun x => x.scheduler.current) h).trans (by rw [State.current_settle]; rfl)
  refine ⟨⟨hcurrent, fun c hc => ⟨fun hd p => ?discarded, fun hd hs => ?request, fun k q hd hs hq => ?poll⟩⟩,
    _, _, h, fun hc => ?_, fun c hc => ⟨fun hs => ?_, fun k hs => ⟨fun hv => ?_, fun q hd hq => ?_⟩⟩⟩
  case discarded =>
    obtain ⟨hnone, hpolls⟩ := State.stuckEnd_discarded hc hd tr
    rw [hnone] at h
    exact State.onlyPollsEnd_of_judgedInto h (s.completions_stuckEnd tr p) hpolls
  case request =>
    refine hjoin ?_
    rw [State.stuckEnd_request hc hs]
    simp [hd, busRecord, Transaction.report, statusOf]
  case poll =>
    have hend := State.stuckEnd_poll hc hs hd hq tr
    refine ⟨(congrArg (fun x => x.poll k) h).trans ?_, hjoin (by simp [hend])⟩
    simp [hend]
  · rw [State.stuckEnd_none hc]
    exact ⟨rfl, rfl⟩
  · rw [State.stuckEnd_request hc hs]
    exact ⟨rfl, rfl⟩
  · rw [State.stuckEnd_vacant hc hs hv]
    exact ⟨rfl, rfl⟩
  · rw [State.stuckEnd_poll hc hs hd hq]
    exact ⟨rfl, rfl⟩

/-- The scheduler's BUS_STUCK end as a step shows it, whatever the engine then is and reads. -/
theorem State.stuckEnd_judgedInto (s : State) (tr : Transaction) (e : Engine) (l : List Bool) (m : Bool) :
    ((s.stuckEnd tr).1.setCurrent none).judgedInto
      (((s.setEngine e).schedulerReport (tr.report .stuck)).busRuns l m) (s.stuckEnd tr).2 := by
  rw [State.schedulerReport_stuck, State.stuckEnd_setEngine]
  exact State.judgedInto_busRuns ((s.stuckEnd tr).1.setCurrent none) e (s.stuckEnd tr).2 l m

/-- The engine does not change as the scheduler takes a report. -/
theorem State.engine_schedulerReport_stuck (s : State) (tr : Transaction) :
    (s.schedulerReport (tr.report .stuck)).engine = s.engine := by
  rw [State.schedulerReport_stuck, State.engine_settle, State.engine_setCurrent]
  have := s.stuckEnd_setEngine s.engine tr
  exact congrArg (fun z => z.1.engine) this

/-- The flags after a BUS_STUCK end that has been judged. -/
theorem State.notify_of_judgedInto {u t : State} {recs : List (Port × Completion)} (h : u.judgedInto t recs)
    (p : Port) : (t.port p).notify = (u.port p).notify :=
  (congrArg (fun x => (x.port p).notify) h).trans (by rw [State.notify_settle]; rfl)

/-- The directory after heads and slots have been judged. -/
theorem State.entry_of_judgedInto {u t : State} {recs : List (Port × Completion)} (h : u.judgedInto t recs)
    (e : EntryNo) : t.entry e = u.entry e :=
  (congrArg (fun x => x.entry e) h).trans (by rw [State.entry_settle]; rfl)

/-! ### A recovery that fails -/

/-- The loader takes a BUS_STUCK report on a FAULTED bus: the load ends (R165). -/
theorem State.loaderReport_faulted {s : State} (h : s.engine.busState = .faulted) (tr : Transaction) :
    s.loaderReport (tr.report .stuck) = s.loadFault .busError := by
  simp [State.loaderReport, Transaction.report, h]

/-- The loader takes a BUS_STUCK report with a recovery to follow: it waits (R165). -/
theorem State.loaderReport_waits {s : State} (h : s.engine.busState ≠ .faulted) (tr : Transaction) :
    s.loaderReport (tr.report .stuck) = s := by
  simp [State.loaderReport, Transaction.report, h]

/-- The loader waits for a recovery exactly in its reading step. -/
theorem State.loaderWaits_iff {s : State} : s.loaderWaits = true ↔ s.phase = .loading ∧ s.loader.step = .reading := by
  simp [State.loaderWaits]

/-- The state of a bus that enters FAULTED, told to the Notify Unit, before anyone takes the outcome. -/
abbrev State.faultedWith (s : State) (e : Engine) : State := (s.tellBusFault e.fault).setEngine e.toFaulted

/-- An engine that enters FAULTED is as R119 has it. -/
theorem Engine.freshFault_toFaulted (e : Engine) : e.toFaulted.freshFault := ⟨rfl, rfl, rfl, rfl, rfl⟩

/-- What everyone sees of a failed recovery: the engine, and the BUS_FAULT flags (R120). -/
abbrev State.faultShown (s t : State) (fault : Bool) : Prop := t.engine.freshFault ∧ s.busFaultTold t fault

/-- Judged on the FAULTED bus. -/
theorem State.faultShown_settle (s : State) (e : Engine) (l : List Bool) (m : Bool) :
    s.faultShown (((s.faultedWith e).settle []).busRuns l m) e.fault := by
  refine ⟨State.freshFault_busRuns (by rw [State.engine_settle]; exact e.freshFault_toFaulted) l m,
    State.busFaultTold_of_flags fun p => ?_⟩
  rw [State.busRuns_eq, State.port_setEngine, State.notify_settle]
  rfl

/-- The load ended on the FAULTED bus. -/
theorem State.faultShown_loadFault (s : State) (e : Engine) (f : LoadFault) (l : List Bool) (m : Bool) :
    s.faultShown (((s.faultedWith e).loadFault f).busRuns l m) e.fault := by
  refine ⟨State.freshFault_busRuns ?_ l m, State.busFaultTold_of_flags fun p => ?_⟩
  · rw [State.engine_loadFault]
    exact e.freshFault_toFaulted
  · rw [State.busRuns_eq, State.port_setEngine, State.flags_loadFault, decide_eq_false (by decide), Bool.or_false]
    rfl

/-- The scheduler's transaction ended BUS_STUCK on the FAULTED bus. -/
theorem State.faultShown_schedulerReport (s : State) (e : Engine) (tr : Transaction) (l : List Bool) (m : Bool) :
    s.faultShown (((s.faultedWith e).schedulerReport (tr.report .stuck)).busRuns l m) e.fault := by
  refine ⟨State.freshFault_busRuns ?_ l m, State.busFaultTold_of_flags fun p => ?_⟩
  · rw [State.engine_schedulerReport_stuck]
    exact e.freshFault_toFaulted
  · rw [State.notify_of_judgedInto ((s.tellBusFault e.fault).stuckEnd_judgedInto tr e.toFaulted l m) p]
    exact (s.tellBusFault e.fault).flags_stuckEnd tr p (by decide)

/-- A blocked START that fails ends its transaction BUS_STUCK: the scheduler's report on a FAULTED bus (R115). -/
theorem State.recoveryEnds_blockedStart_scheduler {s : State} {e : Engine} {tr : Transaction}
    (ht : e.transaction = some tr) (hq : tr.requester = .scheduler) :
    (s.setEngine e).recoveryEnds .blockedStart false = (s.faultedWith e).schedulerReport (tr.report .stuck) := by
  simp [State.recoveryEnds, ht, State.endTransaction, hq, State.engineAfter, State.enterFaulted_eq]

/-- The same of a loader read: the load ends (R115, R165). -/
theorem State.recoveryEnds_blockedStart_loader {s : State} {e : Engine} {tr : Transaction}
    (ht : e.transaction = some tr) (hq : tr.requester = .loader) :
    (s.setEngine e).recoveryEnds .blockedStart false = (s.faultedWith e).loadFault .busError := by
  simp only [State.recoveryEnds, State.engine_setEngine, ht, State.endTransaction, hq, State.engineAfter, if_true,
    State.enterFaulted_eq, Bool.false_eq_true, if_false]
  exact State.loaderReport_faulted rfl tr

/-- The recovery after BUS_STUCK that fails: a load that waits ends, and otherwise heads and slots are judged
(R118, R165). -/
theorem State.recoveryEnds_afterStuck_failed (s : State) (e : Engine) :
    (s.setEngine e).recoveryEnds .afterStuck false = if s.phase = .loading ∧ s.loader.step = .reading then
      (s.faultedWith e).loadFault .busError else (s.faultedWith e).settle [] := by
  simp only [State.recoveryEnds, Bool.false_eq_true, if_false, State.enterFaulted_eq, State.loaderWaits_iff]
  rfl

/-- A retry that fails: heads and slots are judged (R119). -/
theorem State.recoveryEnds_retry_failed (s : State) (e : Engine) :
    (s.setEngine e).recoveryEnds .retry false = (s.faultedWith e).settle [] := by
  simp only [State.recoveryEnds, Bool.false_eq_true, if_false, State.enterFaulted_eq]

/-- A start-up recovery that fails: the load ends (R163). -/
theorem State.recoveryEnds_startUp_failed (s : State) (e : Engine) :
    (s.setEngine e).recoveryEnds .startUp false = (s.faultedWith e).loadFault .busError := by
  simp only [State.recoveryEnds, Bool.false_eq_true, if_false, State.enterFaulted_eq]

/-- A recovery of any cause that fails, as the step shows it (R115, R117, R119, R120, R163, R165): who takes the outcome
goes by the cause. -/
theorem State.recoveryEnds_failed {s t : State} {e : Engine} {c : RecoveryCause} {l : List Bool} {m : Bool}
    (ht : t = ((s.setEngine e).recoveryEnds c false).busRuns l m)
    (hc : c ≠ .blockedStart ∨ e.transaction.isSome = true) :
    s.faultShown t e.fault ∧ ∃ s', s.toldBusFault s' e.fault
      ∧ (c = .startUp ∨ (c = .afterStuck ∧ s.phase = .loading ∧ s.loader.step = .reading) → s'.loadFailed t .busError)
      ∧ (c = .retry ∨ (c = .afterStuck ∧ ¬ (s.phase = .loading ∧ s.loader.step = .reading)) → s'.judgedInto t [])
      ∧ (c = .blockedStart → ∀ tr, e.transaction = some tr →
          (tr.requester = .loader → s'.loadFailed t .busError) ∧ (tr.requester = .scheduler → s'.endsStuck t tr)) := by
  subst ht
  have htold := s.toldBusFault_tell e.fault
  have hload := State.loadFailed_busRuns (s.tellBusFault e.fault) .busError e.toFaulted l m
  have hjudged := State.judgedInto_busRuns (s.tellBusFault e.fault) e.toFaulted [] l m
  cases c with
  | startUp =>
    rw [State.recoveryEnds_startUp_failed]
    exact ⟨s.faultShown_loadFault e .busError l m, _, htold, fun _ => hload, by simp, by simp⟩
  | retry =>
    rw [State.recoveryEnds_retry_failed]
    exact ⟨s.faultShown_settle e l m, _, htold, by simp, fun _ => hjudged, by simp⟩
  | afterStuck =>
    rw [State.recoveryEnds_afterStuck_failed]
    split
    next hwaits => exact ⟨s.faultShown_loadFault e .busError l m, _, htold, fun _ => hload, by simp [hwaits], by simp⟩
    next hwaits =>
      exact ⟨s.faultShown_settle e l m, _, htold, fun h => absurd (by simpa using h) hwaits, fun _ => hjudged, by simp⟩
  | blockedStart =>
    obtain ⟨tr, htr⟩ := Option.isSome_iff_exists.mp (hc.resolve_left (by simp))
    cases hq : tr.requester with
    | loader =>
      rw [State.recoveryEnds_blockedStart_loader htr hq]
      refine ⟨s.faultShown_loadFault e .busError l m, _, htold, by simp, by simp, fun _ tr' htr' => ?_⟩
      cases htr.symm.trans htr'
      exact ⟨fun _ => hload, fun h => absurd (hq.symm.trans h) (by simp)⟩
    | scheduler =>
      rw [State.recoveryEnds_blockedStart_scheduler htr hq]
      refine ⟨s.faultShown_schedulerReport e tr l m, _, htold, by simp, by simp, fun _ tr' htr' => ?_⟩
      cases htr.symm.trans htr'
      exact ⟨fun h => absurd (hq.symm.trans h) (by simp), fun _ => State.endsStuck_of_judgedInto
        ((s.tellBusFault e.fault).stuckEnd_judgedInto tr e.toFaulted l m)⟩

/-! ### A recovery that succeeds -/

/-- The recovery after BUS_STUCK that succeeds: a load that waits ends, and otherwise heads and slots are judged, the
bus READY (R118, R165). -/
theorem State.recoveryEnds_afterStuck_ok (s : State) (e : Engine) :
    (s.setEngine e).recoveryEnds .afterStuck true = if s.phase = .loading ∧ s.loader.step = .reading then
      (s.setEngine e.idle).loadFault .busError else (s.setEngine e.idle).settle [] := by
  simp only [State.recoveryEnds, if_true, State.loaderWaits_iff]
  rfl

/-- What the Notify Unit is told when a retry succeeds: BUS_OK outside LOADING (R119). -/
def State.tellBusOk (s : State) : State := if s.phase = .loading then s else s.raiseAll .busOk

/-- A retry that succeeds: the bus READY, the fault indication cleared, heads and slots judged (R119). -/
theorem State.recoveryEnds_retry_ok (s : State) (e : Engine) :
    (s.setEngine e).recoveryEnds .retry true = (s.tellBusOk.setEngine { e.idle with fault := false }).settle [] := by
  by_cases h : s.phase = .loading
  · rw [State.tellBusOk, if_pos h]
    exact congrArg (fun x : State => x.settle []) (if_pos h)
  · rw [State.tellBusOk, if_neg h]
    exact congrArg (fun x : State => x.settle []) (if_neg h)

/-- A blocked START that succeeds: its transaction goes on (R115). -/
theorem State.recoveryEnds_blockedStart_ok (s : State) (e : Engine) :
    (s.setEngine e).recoveryEnds .blockedStart true = s.setEngine { e with recovery := none, stretch := none } := rfl

end Sys2Proof.Machine

/-! SUPPORT. RECOVERY_COMPLETE, RETRY and STRETCH_LIMIT, and the statements about them. -/

namespace Sys2Proof.Machine

/-! ### RECOVERY_COMPLETE -/

/-- RECOVERY_COMPLETE with a recovery that has its outcome after the reading: the outcome is handed on, and the samples
left over go to what follows. -/
theorem exec_recoveryComplete {s : State} {bus : BusRead} {eng : Engine} {rest : List Bool} {r : Recovery} {ok : Bool}
    (hreads : s.engine.reads bus.samples = (eng, rest)) (hr : eng.recovery = some r) (ho : r.outcome = some ok) :
    exec (.recoveryComplete bus) s = .next (((s.setEngine eng).recoveryEnds r.cause ok).busRuns rest bus.mckLow) := by
  have hended : (s.setEngine eng).recoveryEnded = some (r.cause, ok) := by simp [State.recoveryEnded, hr, ho]
  show Host.Outcome.next (s.afterReading bus State.recoveryEnded fun x s1 => s1.recoveryEnds x.1 x.2) = _
  simp only [State.afterReading, hreads, hended]

/-- After BUS_STUCK or in a retry, success leaves the bus READY; a retry clears the fault indication (R118, R119). -/
theorem State.engine_recoveryEnds_ok (s : State) (e : Engine) {c : RecoveryCause} (hc : c = .afterStuck ∨ c = .retry)
    (l : List Bool) (m : Bool) :
    ∃ sp, (((s.setEngine e).recoveryEnds c true).busRuns l m).engine
      = { e.idle with fault := if c = .retry then false else e.fault, speed := sp } := by
  rcases hc with rfl | rfl
  · rw [State.recoveryEnds_afterStuck_ok]
    split
    · exact ⟨_, State.busRuns_still (by rfl) l m⟩
    · exact ⟨_, (State.busRuns_still (by rw [State.engine_settle]; rfl) l m).trans (by rw [State.engine_settle]; rfl)⟩
  · rw [State.recoveryEnds_retry_ok]
    exact ⟨_, (State.busRuns_still (by rw [State.engine_settle]; rfl) l m).trans (by rw [State.engine_settle]; rfl)⟩

/-- BUS_OK is told to every port, outside LOADING. -/
theorem State.tellBusOk_told (s : State) {P : Prop} [Decidable P] (hP : P ↔ s.phase ≠ .loading) :
    if P then s.raisedAll s.tellBusOk .busOk else s.tellBusOk = s := by
  split
  next h => rw [State.tellBusOk, if_neg (hP.mp h)]; exact s.raisedAll_raiseAll .busOk
  next h => exact if_pos (not_not.mp (mt hP.mpr h))

/-- Where no load ends, success judges heads and slots, a retry having told BUS_OK (R67, R90, R119). -/
theorem State.recoveryEnds_ok_judged (s : State) (e : Engine) {c : RecoveryCause}
    (hc : c = .retry ∨ (c = .afterStuck ∧ ¬ (s.phase = .loading ∧ s.loader.step = .reading)))
    (l : List Bool) (m : Bool) :
    ∃ s', (if c = .retry ∧ s.phase ≠ .loading then s.raisedAll s' .busOk else s' = s)
      ∧ s'.judgedInto (((s.setEngine e).recoveryEnds c true).busRuns l m) [] := by
  rcases hc with rfl | ⟨rfl, hload⟩
  · rw [State.recoveryEnds_retry_ok]
    exact ⟨s.tellBusOk, s.tellBusOk_told (by simp), State.judgedInto_busRuns _ _ [] l m⟩
  · rw [State.recoveryEnds_afterStuck_ok, if_neg hload]
    exact ⟨s, by simp, State.judgedInto_busRuns _ _ [] l m⟩

/-- A start-up recovery that succeeds puts the first loader read on the bus (R163). -/
theorem State.recoveryEnds_startUp_ok {s : State} {a : BitVec 7} (ha : s.loader.memAddress = some a)
    (hs : s.loader.staging = []) (e : Engine) :
    (s.setEngine e).recoveryEnds .startUp true = { s with
      engine := e.idle.start (.fresh .loader .read a [0, 0] 16 []), loader := { s.loader with step := .reading } } := by
  have hindex : indexBytesOf .indexed16 (BitVec.ofNat 16 0) = [0, 0] := by decide
  have hlength : min 16 (stagingSize - 0) = 16 := by decide
  simp only [State.recoveryEnds, if_true, State.startLoaderRead, State.setEngine, ha, hs, List.length_nil, hindex,
    hlength]

/-- Settles O48, clause by clause: success by what each cause then does, failure by what a FAULTED bus shows and who
takes the outcome. -/
theorem recoveryHandsOnOutcome : Obligations.RecoveryHandsOnOutcome := by
  intro s bus eng rest r ok hreads hr ho
  refine ⟨_, exec_recoveryComplete hreads hr ho, ?_⟩
  generalize ht : ((s.setEngine eng).recoveryEnds r.cause ok).busRuns rest bus.mckLow = t
  have hfail (hok : ok = false) (hc : r.cause ≠ .blockedStart ∨ eng.transaction.isSome = true) :=
    State.recoveryEnds_failed (ht.symm.trans (by rw [hok])) hc
  refine ⟨fun hok hc hp => ?success, fun hok hc hp => ?failure, fun hc hp hl => ?load, fun hok hc => ?started,
    fun hok hc tr htr => ?notStarted, fun hc => ⟨fun hok => ?judged, fun hok => ?judgedFaulted⟩, fun hok hc => ?told,
    fun hok hc a ha hs => ?firstRead, fun hok hc => ?noRead⟩
  case success =>
    subst hok
    obtain ⟨sp, heng⟩ := s.engine_recoveryEnds_ok eng hc rest bus.mckLow
    rw [ht] at heng
    refine ⟨by rw [heng]; rfl, by rw [heng]; rfl, by rw [heng]; rfl, by rw [heng], fun hretry p hp' => ?_⟩
    obtain ⟨s', hs', hj⟩ := s.recoveryEnds_ok_judged eng (.inl hretry) rest bus.mckLow
    rw [ht] at hj
    rw [if_pos ⟨hretry, hp⟩] at hs'
    rw [State.notify_of_judgedInto hj p, hs'.1 p, PortUnit.hasBit_raise]
    simp [hp']
  case failure =>
    have hne : r.cause ≠ .blockedStart := by rcases hc with hc | hc <;> simp [hc]
    obtain ⟨⟨⟨hb, hrec, htr, hretry, hf⟩, htold⟩, s', hs', -, hjudged, -⟩ := hfail hok (.inl hne)
    have hj := hjudged (hc.symm.imp id fun h => ⟨h, fun h' => hp h'.1⟩)
    refine ⟨hb, hrec, htr, hretry, hf, fun hq p ha => (htold p).mpr (.inr ⟨hq, hp, ha⟩), fun hq p => ?_⟩
    rw [State.notify_of_judgedInto hj p, hs'.2 (.inl hq)]
  case load =>
    cases hok : ok with
    | true =>
      subst hok
      obtain ⟨sp, heng⟩ := s.engine_recoveryEnds_ok eng (.inl hc) rest bus.mckLow
      rw [ht] at heng
      refine ⟨?_, fun _ => by rw [heng]; rfl, by simp⟩
      rw [← ht, hc, State.recoveryEnds_afterStuck_ok, if_pos ⟨hp, hl⟩]
      exact State.loadFailed_busRuns s .busError eng.idle rest bus.mckLow
    | false =>
      obtain ⟨⟨⟨hb, -, -, hretry, hf⟩, -⟩, s', hs', hload, -⟩ := hfail hok (.inl (by simp [hc]))
      rw [hs'.2 (.inr hp)] at hload
      exact ⟨hload (.inr ⟨hc, hp, hl⟩), by simp, fun _ => ⟨hb, hretry, hf⟩⟩
  case started =>
    subst hok
    rw [hc, State.recoveryEnds_blockedStart_ok] at ht
    subst ht
    refine ⟨rfl, State.busState_busRuns _ _ _, fun hrest => ?_⟩
    rw [hrest, State.busRuns_nil]
    exact ⟨rfl, rfl⟩
  case notStarted =>
    obtain ⟨⟨⟨hb, -, -, hretry, hf⟩, htold⟩, s', hs', -, -, hend⟩ := hfail hok (.inr (by simp [htr]))
    obtain ⟨hloader, hscheduler⟩ := hend hc tr htr
    exact ⟨hb, hretry, hf, htold, s', hs', hloader, hscheduler⟩
  case judged =>
    subst hok
    rw [← ht]
    exact s.recoveryEnds_ok_judged eng hc rest bus.mckLow
  case judgedFaulted =>
    have hne : r.cause ≠ .blockedStart := by rcases hc with hc | hc <;> simp [hc]
    obtain ⟨-, s', hs', -, hjudged, -⟩ := hfail hok (.inl hne)
    exact ⟨s', hs', hjudged hc⟩
  case told =>
    obtain ⟨⟨-, htold⟩, -⟩ := hfail hok (.inl hc)
    exact htold
  case firstRead =>
    subst hok
    rw [hc, State.recoveryEnds_startUp_ok ha hs] at ht
    subst ht
    obtain ⟨tr, htr, hq, haddr, hidx, hlen⟩ := State.busRuns_asked (s := { s with
      engine := eng.idle.start (.fresh .loader .read a [0, 0] 16 []), loader := { s.loader with step := .reading } })
      rfl rest bus.mckLow
    refine ⟨rfl, rfl, State.busState_busRuns _ _ _, ?_⟩
    rw [htr]
    simp [ hq, haddr, hidx, hlen, Transaction.fresh]
  case noRead =>
    obtain ⟨⟨⟨hb, -, -, hretry, hf⟩, -⟩, s', hs', hload, -⟩ := hfail hok (.inl (by simp [hc]))
    exact ⟨⟨s', hs', hload (.inl hc)⟩, hb, hretry, hf⟩

/-! ### RETRY and STRETCH_LIMIT -/

/-- RETRY begins a recovery on a FAULTED bus whose retry timer has reached 100, and does nothing else. -/
theorem exec_retry (s : State) (bus : BusRead) :
    exec (.retry bus) s = .next (if s.engine.busState = .faulted ∧ 100 ≤ s.engine.retry.getD 0 then
      (s.setEngine (s.engine.recover .retry)).busRuns bus.samples bus.mckLow else s) := rfl

/-- STRETCH_LIMIT acts with the stretch timer above 25 while the engine drives the bus, and does nothing else. -/
theorem exec_stretchLimit (s : State) (bus : BusRead) :
    exec (.stretchLimit bus) s = .next (if s.engine.driving = true ∧ 25 < s.engine.stretch.getD 0 then
      s.stretchLimit.busRuns bus.samples bus.mckLow else s) := rfl

/-- The stretch limit fails the recovery that runs (R113). -/
theorem State.stretchLimit_recovery {s : State} {r : Recovery} (h : s.engine.recovery = some r) :
    s.stretchLimit = s.recoveryEnds r.cause false := by
  simp only [State.stretchLimit, h]

/-- The stretch limit blocks a START that waits for MCK (R116). -/
theorem State.stretchLimit_start {s : State} {tr : Transaction} (hr : s.engine.recovery = none)
    (ht : s.engine.transaction = some tr) (hs : tr.atStart = true) :
    s.stretchLimit
      = s.setEngine { s.engine with recovery := some (Recovery.fresh .blockedStart), stretch := none } := by
  simp only [State.stretchLimit, hr, ht, hs, if_true]

/-- The stretch limit ends a loader read past its START: the loader waits for the recovery that begins (R113, R165). -/
theorem State.stretchLimit_loader {s : State} {tr : Transaction} (hr : s.engine.recovery = none)
    (ht : s.engine.transaction = some tr) (hs : tr.atStart = false) (hq : tr.requester = .loader) :
    s.stretchLimit = s.setEngine (s.engine.recover .afterStuck) := by
  simp only [State.stretchLimit, hr, ht, hs, Bool.false_eq_true, if_false, State.endTransaction, hq, State.engineAfter,
    if_true]
  exact State.loaderReport_waits (by simp [Engine.recover]) tr

/-- The stretch limit ends a scheduler's transaction past its START: its report is taken, and a recovery begins
(R113). -/
theorem State.stretchLimit_scheduler {s : State} {tr : Transaction} (hr : s.engine.recovery = none)
    (ht : s.engine.transaction = some tr) (hs : tr.atStart = false) (hq : tr.requester = .scheduler) :
    s.stretchLimit = (s.setEngine (s.engine.recover .afterStuck)).schedulerReport (tr.report .stuck) := by
  simp only [State.stretchLimit, hr, ht, hs, Bool.false_eq_true, if_false, State.endTransaction, hq, State.engineAfter,
    if_true]

/-- The Notify Units after a BUS_STUCK end: the write notice of a WRITE or SEND of count 1 or more, and no more
(R64). -/
theorem State.notify_stuckEnd {s : State} {c : Current} (h : s.scheduler.current = some c) (tr : Transaction)
    (p : Port) :
    ((s.stuckEnd tr).1.port p).notify =
      if c.slot = none ∧ (c.kind = .write ∨ c.kind = .send) ∧ 1 ≤ tr.progress then
        ((s.writeNotice c.entry c.port).port p).notify else (s.port p).notify := by
  cases hs : c.slot with
  | none =>
    rw [State.stuckEnd_request h hs]
    simp only [true_and]
    split <;> rfl
  | some k =>
    rw [if_neg (by simp)]
    cases hd : c.discard with
    | true => rw [State.stuckEnd_vacant h hs (.inl hd)]
    | false =>
      cases hq : s.poll k with
      | none => rw [State.stuckEnd_vacant h hs (.inr hq)]
      | some q => rw [State.stuckEnd_poll h hs hd hq]; rfl

/-- A recovery that has just begun goes on with the samples handed to it: its bus state, its cause, no transaction. -/
theorem State.busRuns_recover {s : State} {e : Engine} {c : RecoveryCause} (h : s.engine = e.recover c) (l : List Bool)
    (m : Bool) : (s.busRuns l m).engine.busState = .recovering ∧ (s.busRuns l m).engine.transaction = none
      ∧ ((s.busRuns l m).engine.recovery.any fun r => r.cause = c) = true := by
  have hr : s.engine.recovery = some (Recovery.fresh c) := by rw [h]; rfl
  obtain ⟨ht, hc⟩ := State.busRuns_recovery hr l m
  exact ⟨(State.busState_busRuns s l m).trans (by rw [h]; rfl), ht.trans (by rw [h]; rfl), hc⟩

/-- Settles O49: RETRY by its guard, and STRETCH_LIMIT by what the engine was doing. -/
theorem stretchLimitAndRetry : Obligations.StretchLimitAndRetry := by
  intro s bus n
  refine ⟨fun h => ?noRetry, fun h => ?noLimit, fun hb hretry hn => ?retry, fun hd hst hn => ?limit⟩
  case noRetry => rw [exec_retry, if_neg fun ⟨hb, hn⟩ => h.elim (fun h => h hb) fun h => by omega]
  case noLimit => rw [exec_stretchLimit, if_neg fun ⟨hd, hn⟩ => h.elim (fun h => by simp [h] at hd) fun h => by omega]
  case retry =>
    obtain ⟨hrec, htr, hcause⟩ := State.busRuns_recover (s := s.setEngine (s.engine.recover .retry))
      (e := s.engine) (c := .retry) rfl bus.samples bus.mckLow
    obtain ⟨-, hy, hf, hsp⟩ := (s.setEngine (s.engine.recover .retry)).busRuns_frame bus.samples bus.mckLow
    refine ⟨_, ?_, hrec, hy, hcause, htr, hf, hsp⟩
    rw [exec_retry, if_pos ⟨hb, by simpa [hretry] using hn⟩]
    rfl
  case limit =>
    refine ⟨s.stretchLimit.busRuns bus.samples bus.mckLow, ?_, fun hr tr htr hat => ?ends,
      fun hr tr htr hat => ?blocked, fun r hr hc => ?fails⟩
    · rw [exec_stretchLimit, if_pos ⟨hd, by simpa [hst] using hn⟩]
    case ends =>
      cases hq : tr.requester with
      | loader =>
        rw [State.stretchLimit_loader hr htr hat hq]
        obtain ⟨hrec, ht, hcause⟩ := State.busRuns_recover (e := s.engine) (c := .afterStuck)
          (s := s.setEngine (s.engine.recover .afterStuck)) rfl bus.samples bus.mckLow
        exact ⟨hrec, ht, hcause, fun _ => rfl, by simp⟩
      | scheduler =>
        rw [State.stretchLimit_scheduler hr htr hat hq]
        have hj := s.stuckEnd_judgedInto tr (s.engine.recover .afterStuck) bus.samples bus.mckLow
        obtain ⟨hrec, ht, hcause⟩ := State.busRuns_recover (e := s.engine) (c := .afterStuck)
          (State.engine_schedulerReport_stuck (s.setEngine (s.engine.recover .afterStuck)) tr) bus.samples bus.mckLow
        refine ⟨hrec, ht, hcause, by simp, fun _ => ⟨State.endsStuck_of_judgedInto hj, fun e => ?_, fun c hcur p => ?_⟩⟩
        · exact (State.entry_of_judgedInto hj e).trans (s.entry_stuckEnd tr e)
        · exact (State.notify_of_judgedInto hj p).trans (State.notify_stuckEnd hcur tr p)
    case blocked =>
      rw [State.stretchLimit_start hr htr hat]
      obtain ⟨ht, hcause⟩ := State.busRuns_recovery (s := s.setEngine
        { s.engine with recovery := some (Recovery.fresh .blockedStart), stretch := none }) rfl bus.samples bus.mckLow
      exact ⟨rfl, ht.trans htr, hcause⟩
    case fails =>
      rw [State.stretchLimit_recovery hr]
      obtain ⟨⟨⟨hbus, -, -, hretry, hf⟩, htold⟩, htaken⟩ := State.recoveryEnds_failed (s := s) (e := s.engine)
        (c := r.cause) (l := bus.samples) (m := bus.mckLow) rfl hc
      exact ⟨hbus, hretry, hf, htold, htaken⟩

end Sys2Proof.Machine

/-! SUPPORT. What a poll slot makes of its iteration's report, and the statement about it. -/

namespace Sys2Proof.Machine

/-! ### The masked compare -/

/-- The masked compare is met: equal under UNTIL_EQUAL, different under UNTIL_DIFFERENT (R96). -/
theorem Poll.met_iff {q : Poll} {b : Byte} : q.met b = true ↔
    (q.condition = .untilEqual ∧ b &&& q.mask = q.matchByte &&& q.mask)
      ∨ (q.condition = .untilDifferent ∧ b &&& q.mask ≠ q.matchByte &&& q.mask) := by
  unfold Poll.met
  cases q.condition <;> simp

/-- The masked compare is not met: different under UNTIL_EQUAL, equal under UNTIL_DIFFERENT (R96). -/
theorem Poll.met_eq_false_iff {q : Poll} {b : Byte} : q.met b = false ↔
    (q.condition = .untilEqual ∧ b &&& q.mask ≠ q.matchByte &&& q.mask)
      ∨ (q.condition = .untilDifferent ∧ b &&& q.mask = q.matchByte &&& q.mask) := by
  unfold Poll.met
  cases q.condition <;> simp

/-! ### The answer to a report -/

/-- Counting a byte brings the count to 0 exactly when at most one read was left (R96). -/
theorem Poll.remaining_counted_eq_zero {q : Poll} {b : Byte} : (q.counted b).remaining = 0 ↔ q.remaining ≤ 1 :=
  Nat.sub_eq_zero_iff_le

/-- A byte was read: it is counted first, then the cancel-pending mark, the compare and the count are asked in this
order (R96, R100). -/
theorem Poll.answer_read {rep : Report} {b : Byte} {more : List Byte} (hok : rep.status = .ok)
    (hdata : rep.data = b :: more) (q : Poll) (now : Time) :
    q.answer now rep =
      if q.cancelPending then (q.counted b, some .aborted)
      else if q.met b then (q.counted b, some .ok)
      else if q.remaining ≤ 1 then (q.counted b, some .exhausted)
      else ((q.counted b).waitFrom now, none) := by
  simp only [Poll.answer, hok, hdata, Poll.remaining_counted_eq_zero]

/-- No byte was read: the slot is left as it stands, and its poll ends (R97, R100). -/
theorem Poll.answer_noByte {rep : Report} (h : rep.status ≠ .ok) (q : Poll) (now : Time) :
    q.answer now rep = (q, some (if q.cancelPending then .aborted else statusOf rep.status)) := by
  obtain ⟨st, count, data⟩ := rep
  cases st with
  | ok => exact absurd rfl h
  | nackAddr | nackData | stuck => rfl

/-- Settles O44: each case picks its branch of the answer to a byte read, or the answer to a report without one. -/
theorem pollAnswersReport : Obligations.PollAnswersReport := by
  refine fun q now rep => ⟨fun hok b more hdata => ⟨q.counted b, rfl, ?_⟩, fun hne => ?noByte⟩
  case noByte =>
    rw [Poll.answer_noByte hne]
    cases rep.status <;> rfl
  have hread := Poll.answer_read hok hdata q now
  refine ⟨fun hcancel => ?aborted, fun hgoes => ⟨fun hmet => ?met, fun hunmet => ⟨fun hlast => ?exhausted,
    fun hmore => ?waits⟩⟩⟩
  case aborted => rw [hread, if_pos hcancel]
  case met => rw [hread, if_neg (by simp [hgoes]), if_pos (Poll.met_iff.mpr hmet)]
  case exhausted =>
    rw [hread, if_neg (by simp [hgoes]), if_neg (by simp [Poll.met_eq_false_iff.mpr hunmet]), if_pos hlast]
  case waits =>
    rw [hread, if_neg (by simp [hgoes]), if_neg (by simp [Poll.met_eq_false_iff.mpr hunmet]),
      if_neg (Nat.not_le.mpr hmore)]
    rfl

end Sys2Proof.Machine

/-! SUPPORT. What the agreement of engine, bus and current-transaction record sees of a state, and the commands that leave
it alone. -/

namespace Sys2Proof.Machine

/-! ### Steps that the bus does not see -/

/-- The two states have one engine and one phase, and both or neither a transaction of the scheduler. -/
def State.sameBus (s t : State) : Prop :=
  t.engine = s.engine ∧ t.phase = s.phase ∧ t.scheduler.current.isSome = s.scheduler.current.isSome

@[simp] theorem State.sameBus_refl (s : State) : s.sameBus s := ⟨rfl, rfl, rfl⟩

theorem State.sameBus.trans {s t u : State} (h : s.sameBus t) (h' : t.sameBus u) : s.sameBus u :=
  ⟨h'.1.trans h.1, h'.2.1.trans h.2.1, h'.2.2.trans h.2.2⟩

/-- Engine, bus and record agree in a state that the bus cannot tell from one where they do. -/
theorem State.sameBus.busSound {s t : State} (h : s.sameBus t) (hs : s.busSound) : t.busSound := by
  obtain ⟨he, hp, hc⟩ := h
  have hnone : t.scheduler.current = none ↔ s.scheduler.current = none := by
    rw [← Option.isNone_iff_eq_none, ← Option.isNone_iff_eq_none, ← Option.not_isSome, ← Option.not_isSome, hc]
  simpa only [State.busSound, State.busOwned, he, hp, hc, hnone] using hs

section
variable {s t : State}

@[simp] theorem State.sameBus_modPort {p : Port} {f : PortUnit → PortUnit} : s.sameBus (t.modPort p f) ↔ s.sameBus t :=
  Iff.rfl
@[simp] theorem State.sameBus_setResult {p : Port} {r : ResultCode} : s.sameBus (t.setResult p r) ↔ s.sameBus t :=
  Iff.rfl
@[simp] theorem State.sameBus_mapPorts {f : Port → PortUnit → PortUnit} : s.sameBus (t.mapPorts f) ↔ s.sameBus t := by
  simp [State.sameBus]
@[simp] theorem State.sameBus_setEntry {e : EntryNo} {x : Option Entry} : s.sameBus (t.setEntry e x) ↔ s.sameBus t :=
  Iff.rfl
@[simp] theorem State.sameBus_modEntry {e : EntryNo} {f : Entry → Entry} : s.sameBus (t.modEntry e f) ↔ s.sameBus t :=
  Iff.rfl
@[simp] theorem State.sameBus_mapEntries {f : Entry → Entry} : s.sameBus (t.mapEntries f) ↔ s.sameBus t := by
  simp [State.sameBus]
@[simp] theorem State.sameBus_setPoll {k : SlotNo} {q : Option Poll} : s.sameBus (t.setPoll k q) ↔ s.sameBus t :=
  Iff.rfl
@[simp] theorem State.sameBus_raise {p : Port} {f : Flag} : s.sameBus (t.raise p f) ↔ s.sameBus t := Iff.rfl
@[simp] theorem State.sameBus_raiseIn {who : Port → Bool} {f : Flag} : s.sameBus (t.raiseIn who f) ↔ s.sameBus t :=
  State.sameBus_mapPorts
@[simp] theorem State.sameBus_raiseAll {f : Flag} : s.sameBus (t.raiseAll f) ↔ s.sameBus t :=
  State.sameBus_mapPorts
@[simp] theorem State.sameBus_raisePeer {p : Port} : s.sameBus (t.raisePeer p) ↔ s.sameBus t :=
  State.sameBus_mapPorts
@[simp] theorem State.sameBus_judgeHead {p : Port} : s.sameBus (t.judgeHead p) ↔ s.sameBus t := Iff.rfl
@[simp] theorem State.sameBus_closeFrame {p : Port} : s.sameBus (t.closeFrame p) ↔ s.sameBus t := Iff.rfl
@[simp] theorem State.sameBus_append {recs : List (Port × Completion)} : s.sameBus (t.append recs) ↔ s.sameBus t :=
  Iff.rfl

@[simp] theorem State.sameBus_settle {recs : List (Port × Completion)} : s.sameBus (t.settle recs) ↔ s.sameBus t := by
  simp [State.sameBus]

@[simp] theorem State.sameBus_markLockLost {e : EntryNo} {p : Port} : s.sameBus (t.markLockLost e p) ↔ s.sameBus t := by
  simp [State.sameBus, State.markLockLost_eq]

@[simp] theorem State.sameBus_relayHealth {e : EntryNo} {out : AddressOutcome} :
    s.sameBus (t.relayHealth e out) ↔ s.sameBus t := by
  rw [State.relayHealth_eq]; exact Iff.rfl

@[simp] theorem State.sameBus_writeNotice {e : EntryNo} {p : Port} : s.sameBus (t.writeNotice e p) ↔ s.sameBus t := by
  rw [State.writeNotice_eq]; exact Iff.rfl

/-- A release changes entries and ports alone, whether an heir takes the lock or not. -/
@[simp] theorem State.sameBus_release {e : EntryNo} {reason : ReleaseReason} :
    s.sameBus (t.release e reason).1 ↔ s.sameBus t := by
  unfold State.release
  simp only
  split
  · simp
  · split
    · simp
    · split
      · simp
      · simp [State.handOver]

/-- The release of several locks, one after the other, changes no more than that. -/
theorem State.sameBus_releaseOwned (p : Port) (l : List EntryNo) (x : State × List (Port × Completion)) :
    s.sameBus (State.releaseOwned p l x).1 ↔ s.sameBus x.1 := by
  induction l generalizing x with
  | nil => rfl
  | cons e es ih =>
    unfold State.releaseOwned
    split <;> simp [ih]

end

/-! ### The frames' own rules -/

/-- SUBMIT answers with a result code, or adds to the port's queue. -/
theorem sameBus_submitRule (p : Port) (f : FrameEnd) (s : State) : s.sameBus (submitRule p f s) := by
  have hsubmit : s.sameBus (s.submit p f.args) := by
    unfold State.submit
    cases decodeRequest f.args with
    | none => simp
    | some r =>
      simp only
      split
      · simp
      · split
        · simp
        · cases s.accessCheck p r <;> simp
  unfold submitRule
  split
  · simp
  · exact hsubmit

/-- FETCH answers with a result code, and at most takes a record from the port's queue. -/
theorem sameBus_fetchRule (p : Port) (f : FrameEnd) (s : State) : s.sameBus (fetchRule p f s) := by
  unfold fetchRule
  split
  · simp
  · split
    · simp
    · split
      · split <;> simp
      · simp

theorem State.sameBus_cancelPoll (s : State) (k : SlotNo) : s.sameBus (s.cancelPoll k) := by
  unfold State.cancelPoll
  cases s.poll k with
  | none => simp
  | some q => simp only; split <;> simp

/-- CANCEL takes a request from the queue or a poll from its slot, and leaves a transaction on the bus (R34). -/
theorem sameBus_cancelRule (p : Port) (f : FrameEnd) (s : State) : s.sameBus (cancelRule p f s) := by
  unfold cancelRule
  simp only
  split
  · simp
  · split
    · simp
    · cases s.pollTagged p (f.arg 0) with
      | some k => simp [s.sameBus_cancelPoll k]
      | none => simp only; split <;> simp

theorem sameBus_eventsRule (p : Port) (f : FrameEnd) (s : State) : s.sameBus (eventsRule p f s) := by
  unfold eventsRule
  cases f.clearList with
  | flags l => simp only; split <;> simp
  | absent | entries => simp

theorem sameBus_changesRule (p : Port) (f : FrameEnd) (s : State) : s.sameBus (changesRule p f s) := by
  unfold changesRule
  split
  · simp
  · cases f.clearList with
    | entries l => simp only; split <;> simp
    | absent | flags => simp

theorem sameBus_watchRule (p : Port) (f : FrameEnd) (s : State) : s.sameBus (watchRule p f s) := by
  unfold watchRule
  split
  · simp
  · cases entryOfByte (f.arg 0) with
    | none => simp
    | some e =>
      cases he : s.entry e with
      | none => simp [he]
      | some x => simp only [he]; split <;> simp

theorem sameBus_unwatchRule (p : Port) (f : FrameEnd) (s : State) : s.sameBus (unwatchRule p f s) := by
  unfold unwatchRule
  cases entryOfByte (f.arg 0) with
  | none => simp
  | some e => cases he : s.entry e <;> simp [he]

theorem sameBus_renewRule (p : Port) (f : FrameEnd) (s : State) : s.sameBus (renewRule p f s) := by
  unfold renewRule
  split
  · simp
  · cases entryOfByte (f.arg 0) with
    | none => simp
    | some e => simp only; split <;> simp

/-- DIR_WRITE answers with a result code, and at most fills a slot. -/
theorem sameBus_dirWriteRule (p : Port) (f : FrameEnd) (s : State) : s.sameBus (dirWriteRule p f s) := by
  unfold dirWriteRule
  simp only
  repeat' split
  all_goals simp

theorem sameBus_dirClearRule (p : Port) (f : FrameEnd) (s : State) : s.sameBus (dirClearRule p f s) := by
  unfold dirClearRule
  split
  · simp
  · split
    · simp
    · cases entryOfByte (f.arg 0) <;> simp

/-- A HOLD may mark the current-transaction record, and does not remove it (R65). -/
theorem State.sameBus_holdPort (s : State) (p : Port) (origin : HoldOrigin) : s.sameBus (s.holdPort p origin) := by
  simp only [State.holdPort, State.sameBus_settle, State.sameBus_raisePeer, State.sameBus_mapEntries,
    State.sameBus_releaseOwned]
  simp [State.sameBus, Scheduler.hold]

theorem sameBus_holdRule (p : Port) (f : FrameEnd) (s : State) : s.sameBus (holdRule p f s) := by
  have hhold (q : Port) (o : HoldOrigin) : s.sameBus ((s.setResult p .done).holdPort q o) :=
    State.sameBus.trans (by simp) (State.sameBus_holdPort _ q o)
  unfold holdRule
  cases portOfByte (f.arg 0) with
  | none => simp
  | some q =>
    simp only
    split
    · simp
    · split
      · simp
      · split
        · simp
        · exact hhold q _

/-- RELEASE answers with a result code, or makes its target ACTIVE. -/
theorem sameBus_releaseRule (p : Port) (f : FrameEnd) (s : State) : s.sameBus (releaseRule p f s) := by
  unfold releaseRule
  cases portOfByte (f.arg 0) with
  | none => simp
  | some q =>
    simp only
    repeat' split
    all_goals simp [State.releasePort]

/-! ### Frames -/

theorem State.sameBus_unjudgedEnd (s : State) (p : Port) : s.sameBus (s.unjudgedEnd p) := by
  unfold State.unjudgedEnd
  split <;> simp

/-- A frame end leaves engine, bus and record in agreement when its command's own rule does, which outside STATUS does
not run in LOADING (R129). -/
theorem State.busSound_frameEnd {s : State} {p : Port} {c : Command} {bits : List Bool}
    {rule : FrameEnd → State → State} (hs : s.busSound)
    (hrule : ∀ f u, u.busSound → (c ≠ .status → u.phase ≠ .loading) → (rule f u).busSound) :
    (s.frameEnd p c bits rule).busSound := by
  have hclose : (s.closeFrame p).busSound := State.sameBus.busSound (s := s) (by simp) hs
  have hresult (r : ResultCode) : ((s.closeFrame p).setResult p r).busSound :=
    State.sameBus.busSound (s := s) (by simp) hs
  unfold State.frameEnd
  cases s.frameAt p bits with
  | none => exact (s.sameBus_unjudgedEnd p).busSound hs
  | some x =>
    simp only
    split
    · unfold State.portLevel
      split
      · exact hresult _
      · split
        · exact hresult _
        next hload =>
          split
          · exact hresult _
          · exact hrule _ _ hclose fun hc hp => hload ⟨hp, hc⟩
    · exact hs

/-- In particular when the bus does not see the command's own rule. -/
theorem State.busSound_frameEnd_sameBus {s : State} {p : Port} {c : Command} {bits : List Bool}
    {rule : FrameEnd → State → State} (hs : s.busSound) (hrule : ∀ (f : FrameEnd) (u : State), u.sameBus (rule f u)) :
    (s.frameEnd p c bits rule).busSound :=
  State.busSound_frameEnd hs fun f u hu _ => (hrule f u).busSound hu

theorem sameBus_execFrameOpen {p : Port} {s t : State} (h : execFrameOpen p s = .next t) : s.sameBus t := by
  cases h
  split
  · simp
  · split <;> simp

theorem sameBus_execResponseSnapshot {p : Port} {b : Byte} {s t : State} (h : execResponseSnapshot p b s = .next t) :
    s.sameBus t := by
  cases h
  split
  · simp
  · split
    · split <;> simp [State.snapshot]
    all_goals simp

theorem sameBus_execIgnoredFrame {p : Port} {bits : List Bool} {s t : State}
    (h : execIgnoredFrame p bits s = .next t) : s.sameBus t := by
  cases h
  split
  · split <;> simp
  all_goals exact s.sameBus_unjudgedEnd p

theorem sameBus_execUnknownCommand {p : Port} {bits : List Bool} {s t : State}
    (h : execUnknownCommand p bits s = .next t) : s.sameBus t := by
  cases h
  split
  · split <;> simp
  · exact s.sameBus_unjudgedEnd p

/-! ### Heads and expiries -/

theorem sameBus_execFenceHead {p : Port} {s t : State} (h : execFenceHead p s = .next t) : s.sameBus t := by
  cases h
  split
  · simp
  · split <;> simp

theorem sameBus_execPollParking {p : Port} {s t : State} (h : execPollParking p s = .next t) : s.sameBus t := by
  cases h
  split
  · simp
  · split <;> simp

theorem sameBus_execLockHead {p : Port} {s t : State} (h : execLockHead p s = .next t) : s.sameBus t := by
  cases h
  split
  · split <;> simp
  · simp

theorem sameBus_execUnlockHead {p : Port} {s t : State} (h : execUnlockHead p s = .next t) : s.sameBus t := by
  cases h
  split
  · simp
  · split <;> simp

theorem sameBus_execBreakHead {p : Port} {s t : State} (h : execBreakHead p s = .next t) : s.sameBus t := by
  cases h
  split
  · simp
  · simp only
    split
    · simp
    · split
      · simp
      · split <;> simp [State.breakLock]

theorem sameBus_execEndWithoutBus {p : Port} {s t : State} (h : execEndWithoutBus p s = .next t) : s.sameBus t := by
  cases h
  split <;> simp

theorem sameBus_execLeaseExpiry {e : EntryNo} {s t : State} (h : execLeaseExpiry e s = .next t) : s.sameBus t := by
  cases h
  split
  · simp
  · split
    · simp
    · split <;> simp

theorem sameBus_execDeferralExpiry {p : Port} {s t : State} (h : execDeferralExpiry p s = .next t) : s.sameBus t := by
  cases h
  split
  · simp
  · split <;> simp

theorem sameBus_execBlockExpiry {k : SlotNo} {s t : State} (h : execBlockExpiry k s = .next t) : s.sameBus t := by
  cases h
  split
  · simp
  · split <;> simp

theorem sameBus_execPollDue {k : SlotNo} {s t : State} (h : execPollDue k s = .next t) : s.sameBus t := by
  cases h
  split
  · simp
  · split <;> simp

end Sys2Proof.Machine

/-! SUPPORT. The engine's parts and its bus state through samples, starts and ends of work, and the statement that every
step keeps engine, bus and current-transaction record in agreement. -/

namespace Sys2Proof.Machine

/-! ### Whose work the engine does -/

/-- Who asked for the transaction on the bus, if there is one (R103). -/
def Engine.owner (e : Engine) : Option Requester := e.transaction.map Transaction.requester

/-- The recovery that runs is the start-up recovery (R121). -/
def Engine.startsUp (e : Engine) : Bool := e.recovery.any fun r => r.cause == .startUp

/-- Who owns the bus, in terms of the owner of the transaction on it. -/
theorem State.busOwned_iff {s : State} : s.busOwned ↔
    (s.scheduler.current.isSome = true ↔ s.engine.owner = some .scheduler)
      ∧ (s.phase ≠ .run → s.scheduler.current = none)
      ∧ (s.engine.owner = some .loader → s.phase = .loading)
      ∧ (s.engine.startsUp = true → s.phase = .loading) := by
  have howner (q : Requester) : (s.engine.transaction.any fun t => t.requester == q) = true
      ↔ s.engine.owner = some q := by
    cases h : s.engine.transaction <;> simp [Engine.owner, h]
  simp only [State.busOwned, howner, Engine.startsUp]

/-- The bus is free of work: the scheduler has no transaction in progress and nothing of the loader's is under way. -/
def State.busFree (s : State) : Prop :=
  s.engine.wellShaped ∧ s.engine.transaction = none ∧ s.engine.startsUp = false ∧ s.scheduler.current = none

theorem State.busFree.busSound {s : State} (h : s.busFree) : s.busSound := by
  obtain ⟨hw, ht, hu, hc⟩ := h
  exact ⟨hw, State.busOwned_iff.mpr (by simp [Engine.owner, ht, hu, hc])⟩

theorem State.busFree.of_sameBus {s t : State} (hs : s.busFree) (h : s.sameBus t) : t.busFree := by
  obtain ⟨hw, ht, hu, hc⟩ := hs
  obtain ⟨he, -, hc'⟩ := h
  rw [State.busFree, he]
  exact ⟨hw, ht, hu, by simpa [hc] using hc'⟩

/-! ### The bus states -/

/-- Only on a FAULTED bus is there a retry timer (R119). -/
theorem Engine.wellShaped.retry_eq_none {e : Engine} (h : e.wellShaped) (hb : e.busState ≠ .faulted) :
    e.retry = none := by
  obtain ⟨-, -, -, hretry, -⟩ := h
  simpa using mt hretry.mp hb

/-- Only on a BUSY bus is there a transaction (R107). -/
theorem Engine.wellShaped.transaction_eq_none {e : Engine} (h : e.wellShaped) (hb : e.busState ≠ .busy) :
    e.transaction = none := by
  obtain ⟨htr, -⟩ := h
  simpa using mt htr.mp hb

/-- With a transaction the bus is BUSY (R107). -/
theorem Engine.wellShaped.busy {e : Engine} {t : Transaction} (h : e.wellShaped) (ht : e.transaction = some t) :
    e.busState = .busy := by
  obtain ⟨htr, -⟩ := h
  exact htr.mp (by simp [ht])

/-- The bus is RECOVERING during every recovery but that of a blocked START, which is part of its transaction
(R115, R117). -/
theorem Engine.wellShaped.recovering {e : Engine} {r : Recovery} (h : e.wellShaped) (hr : e.recovery = some r) :
    e.busState = if r.cause = .blockedStart then .busy else .recovering := by
  obtain ⟨-, hrec, hblocked, -⟩ := h
  split
  next hc => exact hblocked (by simp [hr, hc])
  next hc => exact hrec.mp (by simp [hr, hc])

theorem Engine.wellShaped_start {e : Engine} (h : e.retry = none) (t : Transaction) : (e.start t).wellShaped := by
  simp [Engine.wellShaped, Engine.start, h]

theorem Engine.wellShaped_idle {e : Engine} (h : e.retry = none) : e.idle.wellShaped := by
  simp [Engine.wellShaped, Engine.idle, h]

theorem Engine.wellShaped_recover (e : Engine) {c : RecoveryCause} (h : c ≠ .blockedStart) :
    (e.recover c).wellShaped := by
  simp [Engine.wellShaped, Engine.recover, Recovery.fresh, h]

theorem Engine.wellShaped_toFaulted (e : Engine) : e.toFaulted.wellShaped := by
  simp [Engine.wellShaped, Engine.toFaulted]

/-- The parts of the engine that agree with its bus state are all but the timers' values, the stretch timer and the
speed. -/
theorem Engine.wellShaped.of_parts {e e' : Engine} (h : e.wellShaped) (hb : e'.busState = e.busState)
    (ht : e'.transaction.isSome = e.transaction.isSome)
    (hr : e'.recovery.map Recovery.cause = e.recovery.map Recovery.cause) (hy : e'.retry.isSome = e.retry.isSome)
    (hf : e'.fault = e.fault) : e'.wellShaped := by
  have hany (P : RecoveryCause → Bool) : (e'.recovery.any fun r => P r.cause) = e.recovery.any fun r => P r.cause := by
    have := congrArg (Option.any P) hr
    simpa [Option.any_map, Function.comp_def] using this
  have hblocked := hany (· == .blockedStart)
  have hother := hany (· != .blockedStart)
  simpa only [Engine.wellShaped, hb, ht, hblocked, hother, hy, hf] using h

/-! ### Reading the wires -/

/-- `e'` is `e` further on in the same work: its parts agree with its bus state, its transaction is the same requester's,
and no start-up recovery has begun. -/
def Engine.goesOn (e e' : Engine) : Prop :=
  e'.wellShaped ∧ e'.owner = e.owner ∧ (e'.startsUp = true → e.startsUp = true)

theorem Engine.goesOn.trans {e f g : Engine} (h : e.goesOn f) (h' : f.goesOn g) : e.goesOn g :=
  ⟨h'.1, h'.2.1.trans h.2.1, fun hg => h.2.2 (h'.2.2 hg)⟩

/-- An engine with other timers does the same work. -/
theorem Engine.goesOn_timers {e : Engine} (h : e.wellShaped) (st : Option Nat) {y : Option Nat}
    (hy : y.isSome = e.retry.isSome) : e.goesOn { e with stretch := st, retry := y } :=
  ⟨h.of_parts rfl rfl rfl hy rfl, rfl, id⟩

/-- The recovery of a blocked START runs within its transaction (R115). -/
theorem Engine.goesOn_blocked {e : Engine} {t : Transaction} (h : e.wellShaped) (ht : e.transaction = some t)
    (st : Option Nat) : e.goesOn { e with recovery := some (Recovery.fresh .blockedStart), stretch := st } := by
  have hb := h.busy ht
  refine ⟨?_, rfl, by simp [Engine.startsUp, Recovery.fresh]⟩
  simp [Engine.wellShaped, Recovery.fresh, ht, hb, h.retry_eq_none (by simp [hb])]

/-- A sample goes to the recovery, or to the transaction, or begins the recovery of a blocked START. -/
theorem Engine.goesOn_sample {e : Engine} (h : e.wellShaped) (b : Bool) : e.goesOn (e.sample b) := by
  unfold Engine.sample
  cases hr : e.recovery with
  | some r =>
    have hcause := r.cause_sample b
    exact ⟨h.of_parts rfl rfl (by simp [hr, hcause]) rfl rfl, rfl, by simp [Engine.startsUp, hr, hcause]⟩
  | none =>
    cases ht : e.transaction with
    | none => exact ⟨h, rfl, id⟩
    | some t =>
      simp only
      split
      · simpa [ht] using Engine.goesOn_blocked h ht e.stretch
      · exact ⟨h.of_parts rfl (by simp [ht]) (by simp [hr]) rfl rfl, by simp [Engine.owner, ht, (t.sample_asked b).1],
          by simp [Engine.startsUp]⟩

theorem Engine.goesOn_reads {e : Engine} (h : e.wellShaped) (l : List Bool) : e.goesOn (e.reads l).1 :=
  Engine.reads_keeps (P := e.goesOn) (fun _ st hf => hf.trans (Engine.goesOn_timers hf.1 st rfl))
    (fun _ b hf => hf.trans (Engine.goesOn_sample hf.1 b)) l ⟨h, rfl, id⟩

theorem State.busSound_setEngine {s : State} {e : Engine} (hs : s.busSound) (h : s.engine.goesOn e) :
    (s.setEngine e).busSound := by
  obtain ⟨-, hown⟩ := hs
  obtain ⟨hcur, hrun, hloader, hstart⟩ := State.busOwned_iff.mp hown
  obtain ⟨hw, howner, hup⟩ := h
  refine ⟨hw, State.busOwned_iff.mpr ?_⟩
  simp only [State.engine_setEngine, State.scheduler_setEngine, State.phase_setEngine, howner]
  exact ⟨hcur, hrun, hloader, fun h => hstart (hup h)⟩

theorem State.busSound_reads {s : State} (hs : s.busSound) (l : List Bool) :
    (s.setEngine (s.engine.reads l).1).busSound := State.busSound_setEngine hs (Engine.goesOn_reads hs.1 l)

theorem State.busSound_busRuns {s : State} (hs : s.busSound) (l : List Bool) (m : Bool) : (s.busRuns l m).busSound :=
  State.busSound_setEngine hs <| (Engine.goesOn_reads hs.1 l).trans
    (Engine.goesOn_timers (Engine.goesOn_reads hs.1 l).1 _ rfl)

/-- A report step keeps the agreement when what takes the outcome keeps it. -/
theorem State.busSound_afterReading {α : Type} {s : State} (hs : s.busSound) (bus : BusRead)
    {ended : State → Option α} {act : α → State → State}
    (hact : ∀ u x, u.busSound → ended u = some x → (act x u).busSound) : (s.afterReading bus ended act).busSound := by
  have hread := State.busSound_reads hs bus.samples
  unfold State.afterReading
  simp only
  split
  · exact State.busSound_setEngine hread (Engine.goesOn_timers hread.1 _ rfl)
  next x hx => exact State.busSound_busRuns (hact _ x hread hx) _ _

/-! ### The end of work -/

/-- Off a BUSY bus the scheduler has no transaction in progress. -/
theorem State.busSound.current_eq_none {s : State} (hs : s.busSound) (h : s.engine.owner ≠ some .scheduler) :
    s.scheduler.current = none := by
  obtain ⟨hcur, -⟩ := State.busOwned_iff.mp hs.2
  simpa using mt hcur.mp h

/-- The engine with no transaction and no start-up recovery, and no current record: the bus is free. -/
theorem State.busFree_setEngine {s : State} {e : Engine} (hc : s.scheduler.current = none) (hw : e.wellShaped)
    (ht : e.transaction = none) (hu : e.startsUp = false) : (s.setEngine e).busFree := ⟨hw, ht, hu, hc⟩

/-- What everyone sees of a bus that enters FAULTED, in terms of the engine as it was. -/
theorem State.enterFaulted_eq_setEngine (s : State) :
    s.enterFaulted = (s.tellBusFault s.engine.fault).setEngine s.engine.toFaulted := s.enterFaulted_eq s.engine

theorem State.sameBus_tellBusFault (s : State) (fault : Bool) : s.sameBus (s.tellBusFault fault) := by
  unfold State.tellBusFault
  split <;> simp

/-- Entering FAULTED frees the bus when the scheduler has no transaction in progress. -/
theorem State.busFree_enterFaulted {s : State} (hc : s.scheduler.current = none) : s.enterFaulted.busFree := by
  rw [State.enterFaulted_eq_setEngine]
  obtain ⟨-, -, hc'⟩ := s.sameBus_tellBusFault s.engine.fault
  exact State.busFree_setEngine (by simpa [hc] using hc') s.engine.wellShaped_toFaulted rfl rfl

/-- A load fault changes no more of the engine than its speed, and nothing of the scheduler. -/
theorem State.busFree_loadFault {s : State} (h : s.busFree) (f : LoadFault) : (s.loadFault f).busFree := by
  obtain ⟨hw, ht, hu, hc⟩ := h
  rw [State.busFree, State.engine_loadFault]
  exact ⟨hw.of_parts rfl rfl rfl rfl rfl, ht, hu, by simpa [State.loadFault, State.raiseAll, State.raiseIn] using hc⟩

/-- The commit of a list changes no more of the engine than its speed, and nothing of the scheduler. -/
theorem State.busFree_commit {s : State} (h : s.busFree) : s.commit.busFree := by
  obtain ⟨hw, ht, hu, hc⟩ := h
  exact ⟨hw.of_parts rfl rfl rfl rfl rfl, ht, hu, by simpa [State.commit] using hc⟩

/-- A free bus that is not FAULTED may be given a loader read in LOADING (R121). -/
theorem State.busSound_startLoaderRead {s : State} (h : s.busFree) (hb : s.engine.busState ≠ .faulted)
    (hp : s.phase = .loading) : s.startLoaderRead.busSound := by
  unfold State.startLoaderRead
  cases s.loader.memAddress with
  | none => exact h.busSound
  | some a =>
    obtain ⟨hw, -, -, hc⟩ := h
    refine ⟨Engine.wellShaped_start (hw.retry_eq_none hb) _, State.busOwned_iff.mpr ?_⟩
    simp [Engine.owner, Engine.start, Transaction.fresh, Engine.startsUp, hc, hp]

/-- The loader takes its report on a free bus: it reads on, finishes, or waits for a recovery (R164 to R167). -/
theorem State.busSound_loaderReport {s : State} (h : s.busFree) (hp : s.phase = .loading) {r : Report}
    (hb : r.status ≠ .stuck → s.engine.busState ≠ .faulted) : (s.loaderReport r).busSound := by
  unfold State.loaderReport
  split
  next hst =>
    have hstaged (l : Loader) : ({ s with loader := l } : State).busFree := h
    simp only [State.stage]
    split
    · unfold State.finishLoad
      split
      · exact (State.busFree_loadFault (hstaged _) _).busSound
      · exact (State.busFree_commit (hstaged _)).busSound
    · exact State.busSound_startLoaderRead (hstaged _) (hb (by simp [hst])) hp
  · exact (State.busFree_loadFault h _).busSound
  · exact (State.busFree_loadFault h _).busSound
  · split
    · exact (State.busFree_loadFault h _).busSound
    · exact h.busSound

/-- The scheduler takes a report: the current record is gone, the engine and the phase stay (R64, R66). -/
theorem State.sameBus_schedulerReport (s : State) (r : Report) :
    (s.setCurrent none).sameBus (s.schedulerReport r) := by
  have hslot (u : State) (k : SlotNo) : u.sameBus (u.slotReport k r).1 := by
    unfold State.slotReport
    cases u.poll k with
    | none => simp
    | some q => simp only; split <;> simp
  unfold State.schedulerReport
  cases hc : s.scheduler.current with
  | none => simp [State.sameBus, hc]
  | some c =>
    cases hs : c.slot with
    | none =>
      simp only [hs, State.requestReport, State.sameBus_settle]
      split <;> simp
    | some k =>
      simp only [hs, State.iterationReport]
      split
      · simp
      · exact State.sameBus_settle.mpr (State.sameBus.trans (by simp) (hslot _ k))

/-- What the end of a transaction makes of the engine, and who sees it (R112). -/
theorem State.engineAfter_eq (s : State) (st : BusStatus) (startFailed : Bool) :
    s.engineAfter st startFailed =
      if startFailed then (s.tellBusFault s.engine.fault).setEngine s.engine.toFaulted
      else s.setEngine (if st = .stuck then s.engine.recover .afterStuck else s.engine.idle) := by
  unfold State.engineAfter
  split
  · exact s.enterFaulted_eq_setEngine
  · split <;> rfl

/-- After a transaction the engine has none, is in no start-up recovery, and is FAULTED only if its START failed. -/
theorem State.engineAfter_spec {s : State} (h : s.engine.retry = none) (st : BusStatus) (startFailed : Bool) :
    (s.engineAfter st startFailed).engine.wellShaped ∧ (s.engineAfter st startFailed).engine.transaction = none
      ∧ (s.engineAfter st startFailed).engine.startsUp = false
      ∧ ((s.engineAfter st startFailed).engine.busState = .faulted → startFailed = true)
      ∧ (s.engineAfter st startFailed).phase = s.phase
      ∧ (s.engineAfter st startFailed).scheduler.current.isSome = s.scheduler.current.isSome := by
  rw [State.engineAfter_eq]
  cases startFailed with
  | true =>
    obtain ⟨-, hp, hc⟩ := s.sameBus_tellBusFault s.engine.fault
    exact ⟨s.engine.wellShaped_toFaulted, rfl, rfl, fun _ => rfl, hp, hc⟩
  | false =>
    by_cases hst : st = .stuck
    · rw [if_neg (by simp), if_pos hst]
      exact ⟨s.engine.wellShaped_recover (by simp), rfl, rfl, fun hb => by simp [Engine.recover] at hb, rfl, rfl⟩
    · rw [if_neg (by simp), if_neg hst]
      exact ⟨Engine.wellShaped_idle h, rfl, rfl, fun hb => by simp [Engine.idle] at hb, rfl, rfl⟩

/-- The end of a transaction: its requester takes the report, and what the engine then does is nobody's or the
loader's. -/
theorem State.busSound_endTransaction {s : State} {t : Transaction} (hs : s.busSound)
    (ht : s.engine.transaction = some t) {st : BusStatus} {startFailed : Bool}
    (hf : startFailed = true → st = .stuck) : (s.endTransaction t st startFailed).busSound := by
  obtain ⟨hw, htr, hup, hfaulted, hphase, hcur⟩ :=
    State.engineAfter_spec (hs.1.retry_eq_none (by simp [hs.1.busy ht])) st startFailed
  have howner : s.engine.owner = some t.requester := by simp [Engine.owner, ht]
  unfold State.endTransaction
  cases hq : t.requester with
  | scheduler =>
    exact (State.busFree.of_sameBus (s := (s.engineAfter st startFailed).setCurrent none) ⟨hw, htr, hup, rfl⟩
      (State.sameBus_schedulerReport _ _)).busSound
  | loader =>
    obtain ⟨-, -, hloader, -⟩ := State.busOwned_iff.mp hs.2
    have hnone := hs.current_eq_none (by simp [howner, hq])
    refine State.busSound_loaderReport ⟨hw, htr, hup, by simpa [hnone] using hcur⟩
      (hphase.trans (hloader (by simp [howner, hq]))) fun hst hb => hst (hf (hfaulted hb))

/-- The end of a recovery, by its cause: a blocked START's transaction goes on or ends; of the others none has a
transaction on the bus (R115, R117 to R121). -/
theorem State.busSound_recoveryEnds {s : State} {r : Recovery} (hs : s.busSound) (hr : s.engine.recovery = some r)
    (ok : Bool) : (s.recoveryEnds r.cause ok).busSound := by
  have hbus := hs.1.recovering hr
  have hfree (hc : r.cause ≠ .blockedStart) :
      (s.setEngine s.engine.idle).busFree ∧ s.enterFaulted.busFree := by
    rw [if_neg hc] at hbus
    have hnone := hs.current_eq_none (by simp [Engine.owner, hs.1.transaction_eq_none (by simp [hbus])])
    exact ⟨State.busFree_setEngine hnone (Engine.wellShaped_idle (hs.1.retry_eq_none (by simp [hbus]))) rfl rfl,
      State.busFree_enterFaulted hnone⟩
  unfold State.recoveryEnds
  cases hc : r.cause with
  | blockedStart =>
    rw [hc, if_pos rfl] at hbus
    cases ok with
    | true =>
      obtain ⟨htr, -⟩ := id hs.1
      exact State.busSound_setEngine hs
        ⟨by simp [Engine.wellShaped, htr, hbus, hs.1.retry_eq_none (by simp [hbus])], rfl, by simp [Engine.startsUp]⟩
    | false =>
      cases ht : s.engine.transaction with
      | none => simpa using hs
      | some t => exact State.busSound_endTransaction hs ht fun _ => rfl
  | afterStuck =>
    obtain ⟨hidle, hfaulted⟩ := hfree (by simp [hc])
    have hend : (if ok then s.setEngine s.engine.idle else s.enterFaulted).busFree := by
      split
      · exact hidle
      · exact hfaulted
    simp only
    split
    · exact (State.busFree_loadFault hend _).busSound
    · exact (hend.of_sameBus (by simp)).busSound
  | retry =>
    obtain ⟨hidle, hfaulted⟩ := hfree (by simp [hc])
    have hclear : (s.setEngine { s.engine.idle with fault := false }).busFree := by
      obtain ⟨hw, ht, hu, hn⟩ := hidle
      refine ⟨?_, ht, hu, hn⟩
      obtain ⟨-, -, -, hretry, -⟩ := hw
      simpa [Engine.wellShaped, Engine.idle] using hretry
    cases ok with
    | true =>
      refine (hclear.of_sameBus ?_).busSound
      simp only [if_true, State.sameBus_settle]
      split <;> simp
    | false => exact (hfaulted.of_sameBus (by simp)).busSound
  | startUp =>
    obtain ⟨hidle, hfaulted⟩ := hfree (by simp [hc])
    obtain ⟨-, -, -, hstart⟩ := State.busOwned_iff.mp hs.2
    have hp := hstart (by simp [Engine.startsUp, hr, hc])
    cases ok with
    | true => exact State.busSound_startLoaderRead (s := { s with
        engine := s.engine.idle, loader := { s.loader with step := .reading } }) hidle (by simp [Engine.idle]) hp
    | false => exact (State.busFree_loadFault hfaulted _).busSound

/-! ### The steps of the bus -/

theorem State.busSound_restart (s : State) (cause : ResetCause) (high : Bool) : (s.restart cause high).busSound :=
  State.busFree.busSound ⟨by simp [State.restart, Engine.wellShaped, Engine.initial], rfl, rfl, rfl⟩

/-- A recovery that begins in a state of its own, with no transaction of the scheduler. -/
theorem State.busSound_recover {s : State} {e : Engine} {c : RecoveryCause} (he : s.engine = e.recover c)
    (hn : s.scheduler.current = none) (hc : c ≠ .blockedStart) (hp : c = .startUp → s.phase = .loading) :
    s.busSound := by
  refine ⟨by rw [he]; exact e.wellShaped_recover hc, State.busOwned_iff.mpr ?_⟩
  rw [he]
  simpa [Engine.owner, Engine.startsUp, Engine.recover, Recovery.fresh, hn] using hp

/-- LOADER_START begins the start-up recovery in LOADING, where the scheduler has no transaction (R121, R163). -/
theorem State.busSound_execLoaderStart {s t : State} {a b : Bool} {bus : BusRead} (hs : s.busSound)
    (h : execLoaderStart a b bus s = .next t) : t.busSound := by
  cases h
  split
  next hp =>
    obtain ⟨-, hrun, -⟩ := State.busOwned_iff.mp hs.2
    exact State.busSound_busRuns (State.busSound_recover (s := s.loaderStart a b) (e := s.engine) rfl
      (hrun (by simp [hp.1])) (by simp) fun _ => hp.1) _ _
  next => exact hs

/-- TICK reads the wires and moves timers. -/
theorem State.busSound_execTick {s t : State} {bus : BusRead} (hs : s.busSound) (h : execTick bus s = .next t) :
    t.busSound := by
  cases h
  have hread := Engine.goesOn_reads hs.1 bus.samples
  have htick := hread.trans (Engine.goesOn_timers hread.1 (if (s.engine.reads bus.samples).1.driving && bus.mckLow
      then some (riseTo 26 ((s.engine.reads bus.samples).1.stretch.getD 0)) else none)
    (y := ((s.engine.reads bus.samples).1.tick bus.mckLow).retry) (by
      unfold Engine.tick
      simp only
      split <;> simp))
  exact State.sameBus.busSound (s := s.setEngine ((s.engine.reads bus.samples).1.tick bus.mckLow))
    (by simp [State.sameBus]) (State.busSound_setEngine hs htick)

/-- What the scheduler has put on the bus in RUN, its record being present (R49, R62). -/
theorem State.busSound_granted {s : State} {e : Engine} {t : Transaction} (he : s.engine = e.start t)
    (hy : e.retry = none) (hq : t.requester = .scheduler) (hc : s.scheduler.current.isSome = true)
    (hp : s.phase = .run) : s.busSound := by
  refine ⟨by rw [he]; exact Engine.wellShaped_start hy t, State.busOwned_iff.mpr ?_⟩
  rw [he]
  simp [Engine.owner, Engine.start, Engine.startsUp, hq, hc, hp]

theorem requester_requestTransaction (r : Request) (en : Entry) :
    (requestTransaction r en).requester = .scheduler := by
  unfold requestTransaction
  cases r.kind <;> rfl

/-- A grant in RUN on a READY bus puts a transaction of the scheduler on it, with its record (R56, R62). -/
theorem State.busSound_grantAt {s : State} (hs : s.busSound) (hp : s.phase = .run) (hb : s.engine.busState = .ready)
    (pos : Position) : (s.grantAt pos).busSound := by
  have hy := hs.1.retry_eq_none (by simp [hb])
  cases pos with
  | port p =>
    cases hc : s.portCandidate p with
    | none => simpa only [State.grantAt, hc] using hs
    | some c =>
      obtain ⟨r, e, x⟩ := c
      rw [State.grantAt_port hc]
      exact State.busSound_granted (e := s.engine) (by simp [State.grantPort]) hy (requester_requestTransaction r x)
        (by simp [State.grantPort]) (by simpa [State.grantPort, State.reloadIfOwner] using hp)
  | poll =>
    cases hc : s.pollCandidate with
    | none => simpa only [State.grantAt, hc] using hs
    | some k =>
      cases hq : s.poll k with
      | none => simpa only [State.grantAt, hc, hq] using hs
      | some q =>
        cases hx : s.entry q.entry with
        | none => simpa only [State.grantAt, hc, hq, hx] using hs
        | some x =>
          rw [State.grantAt_poll hc hq hx]
          exact State.busSound_granted (e := s.engine) (t := pollTransaction q x) (by simp [State.grantPoll]) hy rfl
            (by simp [State.grantPoll]) (by simpa [State.grantPoll, State.reloadIfOwner] using hp)

theorem State.busSound_execGrant {s t : State} {bus : BusRead} (hs : s.busSound) (h : execGrant bus s = .next t) :
    t.busSound := by
  cases h
  cases hg : s.grantChoice with
  | none => exact hs
  | some pos =>
    obtain ⟨hp, hb, -⟩ := State.grantChoice_eq_some.mp hg
    exact State.busSound_busRuns (State.busSound_grantAt hs hp hb pos) _ _

/-- What a report step finds ended is the transaction on the bus. -/
theorem Engine.ended_transaction {e : Engine} {q : Requester} {x : Transaction × BusStatus} (h : e.ended q = some x) :
    e.transaction = some x.1 := by
  unfold Engine.ended at h
  split at h
  · cases ht : e.transaction with
    | none => simp [ht] at h
    | some t =>
      simp only [ht] at h
      split at h
      · obtain ⟨o, -, rfl⟩ := Option.map_eq_some_iff.mp h
        rfl
      · cases h
  · cases h

/-- A report step, whoever asks: the transaction on the bus ends with its outcome. -/
theorem State.busSound_report {s : State} (hs : s.busSound) (bus : BusRead)
    {ended : State → Option (Transaction × BusStatus)}
    (hended : ∀ u x, ended u = some x → ∃ q, u.engine.ended q = some x) :
    (s.afterReading bus ended fun x s1 => s1.endTransaction x.1 x.2 false).busSound :=
  State.busSound_afterReading hs bus fun u x hu hx => by
    obtain ⟨q, hq⟩ := hended u x hx
    exact State.busSound_endTransaction hu (Engine.ended_transaction hq) (by simp)

theorem State.requestEnded_ended {s : State} {x : Transaction × BusStatus} (h : s.requestEnded = some x) :
    s.engine.ended .scheduler = some x := by
  unfold State.requestEnded at h
  split at h
  · exact h
  · cases h

theorem State.iterationEnded_ended {s : State} {x : Transaction × BusStatus} (h : s.iterationEnded = some x) :
    s.engine.ended .scheduler = some x := by
  unfold State.iterationEnded at h
  split at h
  · exact h
  · cases h

theorem State.busSound_execRecoveryComplete {s t : State} {bus : BusRead} (hs : s.busSound)
    (h : execRecoveryComplete bus s = .next t) : t.busSound := by
  cases h
  refine State.busSound_afterReading hs bus fun u x hu hx => ?_
  unfold State.recoveryEnded at hx
  cases hr : u.engine.recovery with
  | none => simp [hr] at hx
  | some r =>
    simp only [hr] at hx
    obtain ⟨ok, -, rfl⟩ := Option.map_eq_some_iff.mp hx
    exact State.busSound_recoveryEnds hu hr ok

/-- The stretch limit fails a recovery, blocks a START or ends a transaction (R113, R116). -/
theorem State.busSound_stretchLimit {s : State} (hs : s.busSound) : s.stretchLimit.busSound := by
  unfold State.stretchLimit
  cases hr : s.engine.recovery with
  | some r => exact State.busSound_recoveryEnds hs hr false
  | none =>
    cases ht : s.engine.transaction with
    | none => exact hs
    | some t =>
      simp only
      split
      · simpa [ht] using State.busSound_setEngine hs (Engine.goesOn_blocked hs.1 ht none)
      · exact State.busSound_endTransaction hs ht (by simp)

theorem State.busSound_execStretchLimit {s t : State} {bus : BusRead} (hs : s.busSound)
    (h : execStretchLimit bus s = .next t) : t.busSound := by
  cases h
  split
  · exact State.busSound_busRuns (State.busSound_stretchLimit hs) _ _
  · exact hs

theorem State.busSound_execRetry {s t : State} {bus : BusRead} (hs : s.busSound)
    (h : execRetry bus s = .next t) : t.busSound := by
  cases h
  split
  next hb =>
    have hnone := hs.current_eq_none (by simp [Engine.owner, hs.1.transaction_eq_none (by simp [hb.1])])
    exact State.busSound_busRuns (State.busSound_recover (s := s.setEngine (s.engine.recover .retry)) rfl hnone
      (by simp) (by simp)) _ _
  · exact hs

/-! ### Every step -/

/-- SEAL starts RUN from CONFIG: nothing of the loader's is on the bus there (R121, R169). -/
theorem State.busSound_sealRule {p : Port} {f : FrameEnd} {s : State} (hs : s.busSound) (hl : s.phase ≠ .loading) :
    (sealRule p f s).busSound := by
  obtain ⟨hw, hown⟩ := hs
  obtain ⟨hcur, hrun, hloader, hstart⟩ := State.busOwned_iff.mp hown
  have hsame {r : ResultCode} : (s.setResult p r).busSound := State.sameBus.busSound (s := s) (by simp) ⟨hw, hown⟩
  unfold sealRule
  split
  · exact hsame
  · split
    · exact hsame
    · exact ⟨hw, State.busOwned_iff.mpr ⟨hcur, fun h => absurd rfl h, fun h => absurd (hloader h) hl,
        fun h => absurd (hstart h) hl⟩⟩

theorem State.busSound_restartRule {p : Port} {f : FrameEnd} {s : State} (hs : s.busSound) :
    (restartRule p f s).busSound := by
  unfold restartRule
  split
  · exact State.sameBus.busSound (s := s) (by simp) hs
  · exact s.busSound_restart .restart s.resetn

/-- Every command keeps engine, bus and record in agreement. -/
theorem State.busSound_exec {c : Instr} {s t : State} (hs : s.busSound) (h : exec c s = .next t) : t.busSound := by
  match c, h with
  | .powerOn high, h => cases h; exact s.busSound_restart .powerOn high
  | .resetnFall, h => cases h; exact s.busSound_restart .pin false
  | .loaderStart a b bus, h => exact State.busSound_execLoaderStart hs h
  | .tick bus, h => exact State.busSound_execTick hs h
  | .frameOpen p, h => exact (sameBus_execFrameOpen h).busSound hs
  | .responseSnapshot p b, h => exact (sameBus_execResponseSnapshot h).busSound hs
  | .ignoredFrame p bits, h => exact (sameBus_execIgnoredFrame h).busSound hs
  | .unknownCommand p bits, h => exact (sameBus_execUnknownCommand h).busSound hs
  | .status p bits, h => cases h; exact State.busSound_frameEnd_sameBus hs fun f u => by simp [statusRule]
  | .submit p bits, h => cases h; exact State.busSound_frameEnd_sameBus hs (sameBus_submitRule p)
  | .fetch p bits, h => cases h; exact State.busSound_frameEnd_sameBus hs (sameBus_fetchRule p)
  | .cancel p bits, h => cases h; exact State.busSound_frameEnd_sameBus hs (sameBus_cancelRule p)
  | .events p bits, h => cases h; exact State.busSound_frameEnd_sameBus hs (sameBus_eventsRule p)
  | .ackEvents p bits, h => cases h; exact State.busSound_frameEnd_sameBus hs fun f u => by simp [ackEventsRule]
  | .setMask p bits, h => cases h; exact State.busSound_frameEnd_sameBus hs fun f u => by simp [setMaskRule]
  | .changes p bits, h => cases h; exact State.busSound_frameEnd_sameBus hs (sameBus_changesRule p)
  | .watch p bits, h => cases h; exact State.busSound_frameEnd_sameBus hs (sameBus_watchRule p)
  | .unwatch p bits, h => cases h; exact State.busSound_frameEnd_sameBus hs (sameBus_unwatchRule p)
  | .renew p bits, h => cases h; exact State.busSound_frameEnd_sameBus hs (sameBus_renewRule p)
  | .dirRead p bits, h => cases h; exact State.busSound_frameEnd_sameBus hs fun f u => by simp [dirReadRule]
  | .dirWrite p bits, h => cases h; exact State.busSound_frameEnd_sameBus hs (sameBus_dirWriteRule p)
  | .dirClear p bits, h => cases h; exact State.busSound_frameEnd_sameBus hs (sameBus_dirClearRule p)
  | .seal p bits, h =>
    cases h
    exact State.busSound_frameEnd hs fun f u hu hl => State.busSound_sealRule hu (hl (by simp))
  | .hold p bits, h => cases h; exact State.busSound_frameEnd_sameBus hs (sameBus_holdRule p)
  | .release p bits, h => cases h; exact State.busSound_frameEnd_sameBus hs (sameBus_releaseRule p)
  | .restart p bits, h => cases h; exact State.busSound_frameEnd hs fun f u hu _ => State.busSound_restartRule hu
  | .fenceHead p, h => exact (sameBus_execFenceHead h).busSound hs
  | .pollParking p, h => exact (sameBus_execPollParking h).busSound hs
  | .lockHead p, h => exact (sameBus_execLockHead h).busSound hs
  | .unlockHead p, h => exact (sameBus_execUnlockHead h).busSound hs
  | .breakHead p, h => exact (sameBus_execBreakHead h).busSound hs
  | .endWithoutBus p, h => exact (sameBus_execEndWithoutBus h).busSound hs
  | .grant bus, h => exact State.busSound_execGrant hs h
  | .transactionComplete bus, h =>
    cases h; exact State.busSound_report hs bus fun u x hx => ⟨_, State.requestEnded_ended hx⟩
  | .pollIterationComplete bus, h =>
    cases h; exact State.busSound_report hs bus fun u x hx => ⟨_, State.iterationEnded_ended hx⟩
  | .loaderReadComplete bus, h => cases h; exact State.busSound_report hs bus fun u x hx => ⟨_, hx⟩
  | .recoveryComplete bus, h => exact State.busSound_execRecoveryComplete hs h
  | .leaseExpiry e, h => exact (sameBus_execLeaseExpiry h).busSound hs
  | .deferralExpiry p, h => exact (sameBus_execDeferralExpiry h).busSound hs
  | .blockExpiry k, h => exact (sameBus_execBlockExpiry h).busSound hs
  | .pollDue k, h => exact (sameBus_execPollDue h).busSound hs
  | .stretchLimit bus, h => exact State.busSound_execStretchLimit hs h
  | .retry bus, h => exact State.busSound_execRetry hs h

/-- Settles O53: the commands of frames, heads and expiries leave the bus alone, and those of the bus itself keep the
agreement by the way in which work begins, goes on and ends. -/
theorem stepKeepsBusSound : Obligations.StepKeepsBusSound := by
  intro s t hs h
  unfold step at h
  split at h
  next => cases h; exact hs
  next c rest _ =>
    have hu : ({ s with pending := rest } : State).busSound := hs
    generalize ({ s with pending := rest } : State) = u at h hu
    exact State.busSound_exec hu h

end Sys2Proof.Machine

/-! SUPPORT. The clock pulses of the transaction shapes, and a recovery sequence sample by sample, with the statement about
both. -/

namespace Sys2Proof.Machine

/-! ### The clock pulses of a transaction -/

@[simp] theorem clockPulses_append (l m : List WireSlot) : clockPulses (l ++ m) = clockPulses l + clockPulses m :=
  List.countP_append ..

@[simp] theorem clockPulses_nil : clockPulses [] = 0 := rfl
@[simp] theorem clockPulses_start (l : List WireSlot) : clockPulses (.start :: l) = clockPulses l := rfl
@[simp] theorem clockPulses_repStart (l : List WireSlot) : clockPulses (.repStart :: l) = clockPulses l := rfl
@[simp] theorem clockPulses_stop (l : List WireSlot) : clockPulses (.stop :: l) = clockPulses l := rfl

@[simp] theorem clockPulses_sendByte (b : Byte) (what : Acked) : clockPulses (sendByte b what) = 9 := rfl

@[simp] theorem clockPulses_receiveByte (last : Bool) : clockPulses (receiveByte last) = 9 := rfl

@[simp] theorem clockPulses_sendAll (bs : List Byte) (what : Acked) :
    clockPulses (sendAll bs what) = 9 * bs.length := by
  induction bs with
  | nil => rfl
  | cons b bs ih =>
    have hsplit : sendAll (b :: bs) what = sendByte b what ++ sendAll bs what := List.flatMap_cons
    rw [hsplit, clockPulses_append, ih, clockPulses_sendByte, List.length_cons]
    omega

@[simp] theorem clockPulses_receiveBytes (n : Nat) : clockPulses (receiveBytes n) = 9 * n := by
  induction n with
  | zero => rfl
  | succ n ih => rw [receiveBytes, clockPulses_append, ih, clockPulses_receiveByte]; omega

/-- A read sends two address bytes and the index bytes, and receives the data (R108). -/
theorem clockPulses_read (a : BitVec 7) (idx : List Byte) (n : Nat) (data : List Byte) :
    clockPulses (wireSlots .read a idx n data) = 18 + 9 * idx.length + 9 * n := by
  simp [wireSlots]
  omega

/-- A write sends one address byte, the index bytes and the data (R108). -/
theorem clockPulses_write (a : BitVec 7) (idx : List Byte) (n : Nat) (data : List Byte) :
    clockPulses (wireSlots .write a idx n data) = 9 + 9 * idx.length + 9 * data.length := by
  simp [wireSlots, Nat.add_assoc]

/-- A send is an address byte and the data (R108). -/
theorem clockPulses_send (a : BitVec 7) (n : Nat) (data : List Byte) :
    clockPulses (wireSlots .send a [] n data) = 9 + 9 * data.length := by simp [wireSlots]

/-- A receive is an address byte and the bytes received (R108). -/
theorem clockPulses_recv (a : BitVec 7) (n : Nat) (data : List Byte) :
    clockPulses (wireSlots .recv a [] n data) = 9 + 9 * n := by simp [wireSlots]

/-- A probe is an address byte (R108). -/
theorem clockPulses_probe (a : BitVec 7) (n : Nat) (data : List Byte) :
    clockPulses (wireSlots .probe a [] n data) = 9 := by simp [wireSlots]

/-! ### A recovery, sample by sample -/

/-- While a recovery runs every sample is its own (R117). -/
theorem Engine.sample_recovery {e : Engine} {r : Recovery} (h : e.recovery = some r) (b : Bool) :
    e.sample b = { e with recovery := some (r.sample b) } := by
  simp only [Engine.sample, h]

/-- A recovery without an outcome drives the bus. -/
theorem Engine.driving_recovery {e : Engine} {r : Recovery} (h : e.recovery = some r) :
    e.driving = r.outcome.isNone := by
  simp only [Engine.driving, h]

/-- The first reading of MDA gives no pulse (R117, steps 1 and 2). -/
theorem Recovery.sample_settling {r : Recovery} (h : r.stage = .settling) (b : Bool) :
    r.sample b = { r with stage := if b then .stopping else .pulsing } := by
  cases b <;> simp [Recovery.sample, h]

/-- A pulse read high goes to the STOP; the ninth read low fails the recovery (R117, step 3). -/
theorem Recovery.sample_pulsing {r : Recovery} (h : r.stage = .pulsing) (b : Bool) :
    r.sample b = if b then { r with pulses := r.pulses + 1, stage := .stopping }
      else if r.pulses + 1 < 9 then { r with pulses := r.pulses + 1 }
      else { r with pulses := r.pulses + 1, outcome := some false } := by
  simp only [Recovery.sample, h]

/-- A STOP that reads high ends the recovery well; one that reads low goes back to the pulses below 9 and else fails
(R117, step 4). -/
theorem Recovery.sample_stopping {r : Recovery} (h : r.stage = .stopping) (b : Bool) :
    r.sample b = if b then { r with outcome := some true }
      else if r.pulses < 9 then { r with stage := .pulsing } else { r with outcome := some false } := by
  simp only [Recovery.sample, h]

/-- MCK is low in the low half of a point, but for a START, which begins with it released, and at its end, but for a
STOP, which leaves it released (R104, R105). -/
theorem releasesMck_iff (m : WireMoment) (w : WireSlot) :
    releasesMck m w = true ↔ (m = .low → w = .start) ∧ (m = .ended → w = .stop) := by
  cases m <;> simp [releasesMck]

/-- MDA of a STOP is low until MCK is read high (R105). -/
theorem releasesMda_stop (m : WireMoment) : releasesMda m .stop = true ↔ m ≠ .low ∧ m ≠ .rising := by
  cases m <;> simp [releasesMda]

/-- The lines of a recovery: both released at the first reading, then clock pulses with MDA released, then the STOP
(R104, R105, R117, log 22). -/
theorem Engine.recovery_lines {e : Engine} {r : Recovery} (hr : e.recovery = some r) (ho : r.outcome = none) :
    (r.stage = .settling → ∀ m, e.mdaAt m = true ∧ e.mckAt m = true) ∧ (r.stage = .pulsing → e.pulses true)
      ∧ (r.stage = .stopping → e.stops) := by
  have hlines := Engine.lines_recovery hr ho
  refine ⟨fun hst m => ?settling, fun hst => ?pulsing, fun hst => ?stopping⟩
  all_goals simp only [hst] at hlines
  case settling => exact ⟨(hlines m).1.trans rfl, (hlines m).2⟩
  case pulsing =>
    refine ⟨fun m => ?_, fun m => (hlines m).1.trans rfl⟩
    rw [(hlines m).2, releasesMck_iff]
    simp
  case stopping =>
    refine ⟨fun m => ?_, fun m => ?_⟩
    · rw [(hlines m).2, releasesMck_iff]
      simp
    · rw [(hlines m).1.trans (show _ = releasesMda m .stop from rfl), releasesMda_stop]

/-! ### A recovery, from its first reading to its outcome -/

/-- The engine with its recovery at a number of pulses, a stage and an outcome. -/
def Engine.inRecovery (e : Engine) (c : RecoveryCause) (pulses : Nat) (stage : RecoveryStage) (outcome : Option Bool) :
    Engine :=
  { e with recovery := some { cause := c, pulses := pulses, stage := stage, outcome := outcome } }

/-- A recovery without an outcome takes the next sample. -/
theorem Engine.feed_inRecovery (e : Engine) (c : RecoveryCause) (n : Nat) (st : RecoveryStage) (b : Bool)
    (more : List Bool) : Engine.feed (b :: more) (e.inRecovery c n st none)
      = Engine.feed more { e with
          recovery := some (Recovery.sample { cause := c, pulses := n, stage := st, outcome := none } b) } := by
  rw [Engine.feed_driving (by rfl), Engine.sample_recovery (by rfl)]
  rfl

/-- The reading of an engine whose recovery has no outcome, with a first sample at least. -/
theorem Engine.reads_recovery {e : Engine} {r : Recovery} (hr : e.recovery = some r) (ho : r.outcome = none)
    (l : List Bool) : (e.reads l).1.recovery = (Engine.feed l { e with stretch := none }).1.recovery := by
  unfold Engine.reads
  cases l with
  | nil => simp
  | cons b bs => simp [Engine.driving_recovery hr, ho]

/-- Pulses read low are given, and below nine the recovery gives more. -/
theorem Engine.feed_pulsesLow (e : Engine) (c : RecoveryCause) (n k : Nat) (h : k + n < 9) (more : List Bool) :
    Engine.feed (List.replicate n false ++ more) (e.inRecovery c k .pulsing none)
      = Engine.feed more (e.inRecovery c (k + n) .pulsing none) := by
  induction n generalizing k with
  | zero => rfl
  | succ n ih =>
    rw [List.replicate_succ, List.cons_append, Engine.feed_inRecovery, Recovery.sample_pulsing rfl, if_neg (by simp),
      if_pos (show k + 1 < 9 by omega)]
    exact (ih (k + 1) (by omega)).trans (by rw [Nat.add_right_comm, Nat.add_assoc])

/-- What a recovery keeps: it never has more than nine pulses, and is about to give one only below nine. -/
def Recovery.bounded (r : Recovery) : Prop := r.pulses ≤ 9 ∧ (r.outcome = none → r.stage ≠ .stopping → r.pulses < 9)

/-- A recovery that still runs stays bounded (R117). -/
theorem Recovery.bounded_sample {r : Recovery} (h : r.bounded) (ho : r.outcome = none) (b : Bool) :
    (r.sample b).bounded := by
  obtain ⟨hle, hlt⟩ := h
  cases hst : r.stage with
  | settling => rw [Recovery.sample_settling hst]; cases b <;> simp_all [Recovery.bounded]
  | pulsing =>
    have hlt := hlt ho (by simp [hst])
    rw [Recovery.sample_pulsing hst]
    split
    · simp [Recovery.bounded]; omega
    · split <;> simp_all [Recovery.bounded]
  | stopping =>
    rw [Recovery.sample_stopping hst]
    split
    · simp_all [Recovery.bounded]
    · split <;> simp_all [Recovery.bounded]

/-- A bounded recovery stays bounded whatever the engine reads, since it takes no sample after its outcome. -/
theorem Engine.bounded_feed (l : List Bool) {e : Engine} {r : Recovery} (hr : e.recovery = some r) (h : r.bounded) :
    ∃ r', (Engine.feed l e).1.recovery = some r' ∧ r'.bounded := by
  induction l generalizing e r with
  | nil => exact ⟨r, hr, h⟩
  | cons b bs ih =>
    cases ho : r.outcome with
    | none =>
      rw [Engine.feed_driving (by simp [Engine.driving_recovery hr, ho]), Engine.sample_recovery hr]
      exact ih rfl (Recovery.bounded_sample h ho b)
    | some ok =>
      rw [Engine.feed_still (by simp [Engine.driving_recovery hr, ho])]
      exact ⟨r, hr, h⟩

/-- Settles O40: the pulses are counted element by element, a recovery's samples stage by stage. -/
theorem clockPulsesOfShapes : Obligations.ClockPulsesOfShapes := by
  refine ⟨fun a i n data => ?shapes, fun e r hr ho => ?samples, fun e c he => ?whole⟩
  case shapes =>
    refine ⟨?_, ?_, ?_, ?_, fun b => clockPulses_send a 1 [b], clockPulses_recv a 1 [], clockPulses_probe a 0 []⟩
    · simp [clockPulses_read, indexBytesOf]
    · simp [clockPulses_read, indexBytesOf]
    · simp [clockPulses_write, indexBytesOf]
    · simp [clockPulses_write, indexBytesOf]
  case samples =>
    simp only [Engine.sample_recovery hr]
    refine ⟨fun hst => ?_, fun hst => ?_, fun hst => ?_, Engine.recovery_lines hr ho⟩
    · simp [Recovery.sample_settling hst]
    · simp only [Recovery.sample_pulsing hst]
      exact ⟨rfl, fun h => by simp [h], fun h => by simp [Nat.not_lt.mpr h]⟩
    · simp only [Recovery.sample_stopping hst]
      exact ⟨rfl, fun h => by simp [h], fun h => by simp [Nat.not_lt.mpr h]⟩
  case whole =>
    simp only [Engine.reads_recovery he rfl]
    have hstart : ({ e with stretch := none } : Engine)
        = ({ e with stretch := none } : Engine).inRecovery c 0 .settling none := by
      rw [Engine.inRecovery, ← he]
    rw [hstart]
    generalize ({ e with stretch := none } : Engine) = e'
    have hlow (n : Nat) (hn : n < 9) (more : List Bool) :
        Engine.feed ([false] ++ List.replicate n false ++ more) (e'.inRecovery c 0 .settling none)
          = Engine.feed more (e'.inRecovery c n .pulsing none) := by
      rw [List.append_assoc, List.singleton_append, Engine.feed_inRecovery, Recovery.sample_settling rfl]
      exact (e'.feed_pulsesLow c n 0 (by omega) more).trans (by rw [Nat.zero_add])
    refine ⟨rfl, fun n hn => ?_, ?_, fun samples => ?_⟩
    · rw [hlow n (by omega)]
      rfl
    · have hnine : [false] ++ List.replicate 9 false = [false] ++ List.replicate 8 false ++ [false] := rfl
      rw [hnine, hlow 8 (by omega)]
      rfl
    · obtain ⟨r, hr, hle, -⟩ := Engine.bounded_feed samples (e := e'.inRecovery c 0 .settling none) rfl
        (r := { cause := c, pulses := 0, stage := .settling, outcome := none }) (by simp [Recovery.bounded])
      simpa [hr] using hle

end Sys2Proof.Machine

/-! SUPPORT. The samples of a transaction from its START to its STOP, what one sample can do, the lines at each point, and
the statement about the wires. -/

namespace Sys2Proof.Machine

/-! ### A transaction taken through samples -/

/-- Whatever engine has transaction `t` under way, in no recovery, with `samples` it comes to have `t'`. -/
def Transaction.takes (t : Transaction) (samples : List Bool) (t' : Transaction) : Prop :=
  ∀ e : Engine, e.recovery = none → e.transaction = some t → ∀ more,
    Engine.feed (samples ++ more) e = Engine.feed more { e with transaction := some t' }

/-- The transaction with these points still to come. -/
def Transaction.toCome (t : Transaction) (slots : List WireSlot) : Transaction := { t with slots := slots }

/-- The transaction at its end (R112). -/
def Transaction.endedWith (t : Transaction) (st : BusStatus) : Transaction := { t with slots := [], outcome := some st }

theorem Transaction.takes_nil (t : Transaction) : t.takes [] t := by
  intro e _ ht more
  rw [List.nil_append, ← ht]

theorem Transaction.takes.trans {t t' t'' : Transaction} {xs ys : List Bool} (h : t.takes xs t')
    (h' : t'.takes ys t'') : t.takes (xs ++ ys) t'' := by
  intro e hr ht more
  rw [List.append_assoc, h e hr ht]
  exact h' { e with transaction := some t' } hr rfl more

section
variable {t : Transaction} (ho : t.outcome = none)
include ho

/-- START, read high (R105, R115). -/
theorem Transaction.takes_start (rest : List WireSlot) : (t.toCome (.start :: rest)).takes [true] (t.toCome rest) := by
  intro e hr ht more
  rw [List.singleton_append, Engine.feed_sample hr ht ho (.inr rfl)]
  rfl

/-- The repeated START, read high (R105). -/
theorem Transaction.takes_repStart (rest : List WireSlot) :
    (t.toCome (.repStart :: rest)).takes [true] (t.toCome rest) := by
  intro e hr ht more
  rw [List.singleton_append, Engine.feed_sample hr ht ho (.inr rfl)]
  rfl

/-- STOP, read high, ends the transaction: OK unless a byte was refused (R105, R109). -/
theorem Transaction.takes_stop : (t.toCome [.stop]).takes [true] (t.endedWith (t.refusal.getD .ok)) := by
  intro e hr ht more
  rw [List.singleton_append, Engine.feed_sample hr ht ho (.inr rfl)]
  rfl

/-- A byte sent and acknowledged (R106, R110). -/
theorem Transaction.takes_ackedByte (b : Byte) (what : Acked) (rest : List WireSlot) :
    (t.toCome (sendByte b what ++ rest)).takes (ackedByte b) ((t.acked what).toCome rest) := by
  intro e hr ht more
  rw [Engine.feed_ackedByte hr ht ho rfl]
  cases what <;> rfl

/-- A byte sent and refused: the STOP follows and the transaction ends with the status of the byte (R109). -/
theorem Transaction.takes_refused (b : Byte) (what : Acked) (rest : List WireSlot) :
    (t.toCome (sendByte b what ++ rest)).takes (nackedByte b ++ [true])
      ({ t with refusal := some (refusalOf what) }.endedWith (refusalOf what)) := by
  have hrefused : (t.toCome (sendByte b what ++ rest)).takes (nackedByte b)
      ({ t with refusal := some (refusalOf what) }.toCome [.stop]) := by
    intro e hr ht more
    rw [Engine.feed_nackedByte hr ht ho rfl]
    rfl
  exact hrefused.trans (Transaction.takes_stop ho)

/-- A byte received, whatever the level of the engine's own acknowledge bit (R106, R110). -/
theorem Transaction.takes_receivedByte (hi : t.shiftIn = []) (b : Byte) (last own : Bool) (rest : List WireSlot) :
    (t.toCome (receiveByte last ++ rest)).takes (bitsOfByte b ++ [own])
      ({ t with received := t.received ++ [b] }.toCome rest) := by
  intro e hr ht more
  rw [Engine.feed_receivedByte hr ht ho hi rfl]
  rfl

end

/-- The index bytes sent and acknowledged, each counted (R110). -/
theorem Transaction.takes_indexBytes {t : Transaction} (ho : t.outcome = none) (bs : List Byte)
    (rest : List WireSlot) : (t.toCome (sendAll bs .index ++ rest)).takes (bs.flatMap ackedByte)
      ({ t with indexAcked := t.indexAcked + bs.length }.toCome rest) := by
  induction bs generalizing t with
  | nil => exact Transaction.takes_nil _
  | cons b bs ih =>
    have hsplit : sendAll (b :: bs) .index ++ rest = sendByte b .index ++ (sendAll bs .index ++ rest) := by
      simp [sendAll]
    have hcount : t.indexAcked + (bs.length + 1) = t.indexAcked + 1 + bs.length := by omega
    rw [hsplit, List.flatMap_cons, List.length_cons, hcount]
    exact (Transaction.takes_ackedByte ho b .index _).trans (ih (t := t.acked .index) ho)

/-- The data bytes sent and acknowledged, each counted (R110). -/
theorem Transaction.takes_dataBytes {t : Transaction} (ho : t.outcome = none) (bs : List Byte)
    (rest : List WireSlot) : (t.toCome (sendAll bs .data ++ rest)).takes (bs.flatMap ackedByte)
      ({ t with dataAcked := t.dataAcked + bs.length }.toCome rest) := by
  induction bs generalizing t with
  | nil => exact Transaction.takes_nil _
  | cons b bs ih =>
    have hsplit : sendAll (b :: bs) .data ++ rest = sendByte b .data ++ (sendAll bs .data ++ rest) := by
      simp [sendAll]
    have hcount : t.dataAcked + (bs.length + 1) = t.dataAcked + 1 + bs.length := by omega
    rw [hsplit, List.flatMap_cons, List.length_cons, hcount]
    exact (Transaction.takes_ackedByte ho b .data _).trans (ih (t := t.acked .data) ho)

/-- The bytes received, in order (R106, R110). -/
theorem Transaction.takes_receivedBytes {t : Transaction} (ho : t.outcome = none) (hi : t.shiftIn = [])
    (ds : List Byte) (rest : List WireSlot) : (t.toCome (receiveBytes ds.length ++ rest)).takes (ds.flatMap ackedByte)
      ({ t with received := t.received ++ ds }.toCome rest) := by
  induction ds generalizing t with
  | nil => rw [List.append_nil]; exact Transaction.takes_nil _
  | cons d ds ih =>
    have hreceived : t.received ++ d :: ds = (t.received ++ [d]) ++ ds := by simp
    rw [List.length_cons, receiveBytes, List.append_assoc, List.flatMap_cons, hreceived]
    exact (Transaction.takes_receivedByte ho hi d _ false _).trans
      (ih (t := { t with received := t.received ++ [d] }) ho hi)

/-- Bytes to be sent, cut before one of them. -/
theorem sendAll_split (pre : List Byte) (b : Byte) (post : List Byte) (what : Acked) (rest : List WireSlot) :
    sendAll (pre ++ b :: post) what ++ rest
      = sendAll pre what ++ (sendByte b what ++ (sendAll post what ++ rest)) := by
  simp [sendAll]

/-! ### Transactions from START to STOP -/

/-- A transaction that the samples bring to its end is reported so by the engine that takes it on (R107, R112). -/
theorem Transaction.takes.endsWith {t t' : Transaction} {samples : List Bool} {st : BusStatus}
    (h : t.takes samples (t'.endedWith st)) (e : Engine) {count : Nat} {data : List Byte}
    (hreport : (t'.endedWith st).report st = { status := st, count := count, data := data }) :
    e.endsWith t samples st count data := by
  have hreads (l : List Bool) : (e.start t).reads l = Engine.feed l (e.start t) := by
    unfold Engine.reads
    split
    · rfl
    next hstill =>
      cases l with
      | nil => rfl
      | cons b bs => rw [Engine.feed_still (by simpa using hstill)]
  have hfeed := h (e.start t) rfl rfl []
  rw [List.append_nil, Engine.feed_nil] at hfeed
  rw [Engine.endsWith, hreads, hfeed]
  exact ⟨rfl, _, rfl, rfl, hreport⟩

section
variable (rq : Requester) (a : BitVec 7) (idx ds : List Byte) (n : Nat)

/-- The points of a read in order (R108). -/
theorem Transaction.fresh_read (data : List Byte) : Transaction.fresh rq .read a idx n data
    = (Transaction.fresh rq .read a idx n data).toCome (.start :: (sendByte (addressByte a false) .address
      ++ (sendAll idx .index ++ (.repStart :: (sendByte (addressByte a true) .address
        ++ (receiveBytes n ++ [.stop])))))) := by
  simp [Transaction.fresh, Transaction.toCome, wireSlots]

/-- The points of a write in order (R108). -/
theorem Transaction.fresh_write : Transaction.fresh rq .write a idx n ds
    = (Transaction.fresh rq .write a idx n ds).toCome (.start :: (sendByte (addressByte a false) .address
      ++ (sendAll idx .index ++ (sendAll ds .data ++ [.stop])))) := by
  simp [Transaction.fresh, Transaction.toCome, wireSlots]

/-- The points of a send in order (R108). -/
theorem Transaction.fresh_send : Transaction.fresh rq .send a idx n ds
    = (Transaction.fresh rq .send a idx n ds).toCome (.start :: (sendByte (addressByte a false) .address
      ++ (sendAll ds .data ++ [.stop]))) := by
  simp [Transaction.fresh, Transaction.toCome, wireSlots]

/-- The points of a receive in order (R108). -/
theorem Transaction.fresh_recv : Transaction.fresh rq .recv a idx n ds
    = (Transaction.fresh rq .recv a idx n ds).toCome (.start :: (sendByte (addressByte a true) .address
      ++ (receiveBytes n ++ [.stop]))) := by
  simp [Transaction.fresh, Transaction.toCome, wireSlots]

/-- The points of a probe in order (R108). -/
theorem Transaction.fresh_probe : Transaction.fresh rq .probe a idx n ds
    = (Transaction.fresh rq .probe a idx n ds).toCome (.start :: (sendByte (addressByte a false) .address
      ++ [.stop])) := by
  simp [Transaction.fresh, Transaction.toCome, wireSlots]

/-- Every shape but a receive begins with START and the address byte for writing (R106, R108). -/
theorem Transaction.fresh_writing {sh : Shape} (h : sh ≠ .recv) : ∃ rest, Transaction.fresh rq sh a idx n ds
    = (Transaction.fresh rq sh a idx n ds).toCome (.start :: (sendByte (addressByte a false) .address ++ rest)) := by
  cases sh with
  | recv => exact absurd rfl h
  | read => exact ⟨_, Transaction.fresh_read rq a idx n ds⟩
  | write => exact ⟨_, Transaction.fresh_write rq a idx ds n⟩
  | send => exact ⟨_, Transaction.fresh_send rq a idx ds n⟩
  | probe => exact ⟨_, Transaction.fresh_probe rq a idx ds n⟩

/-- Reads and writes send their index bytes after that (R106, R108). -/
theorem Transaction.fresh_indexed {sh : Shape} (h : sh = .read ∨ sh = .write) :
    ∃ rest, Transaction.fresh rq sh a idx n ds = (Transaction.fresh rq sh a idx n ds).toCome
      (.start :: (sendByte (addressByte a false) .address ++ (sendAll idx .index ++ rest))) := by
  rcases h with rfl | rfl
  · exact ⟨_, Transaction.fresh_read rq a idx n ds⟩
  · exact ⟨_, Transaction.fresh_write rq a idx ds n⟩

end

/-- START and an address byte that the device acknowledges (R105, R106). -/
theorem Transaction.takes_addressed {t : Transaction} (ho : t.outcome = none) (b : Byte) (rest : List WireSlot) :
    (t.toCome (.start :: (sendByte b .address ++ rest))).takes ([true] ++ ackedByte b) (t.toCome rest) :=
  (Transaction.takes_start ho _).trans (Transaction.takes_ackedByte ho b .address rest)

/-- START and an address byte that the device refuses, with the STOP (R105, R109). -/
theorem Transaction.takes_notAddressed {t : Transaction} (ho : t.outcome = none) (b : Byte) (rest : List WireSlot) :
    (t.toCome (.start :: (sendByte b .address ++ rest))).takes ([true] ++ nackedByte b ++ [true])
      ({ t with refusal := some .nackAddr }.endedWith .nackAddr) := by
  rw [List.append_assoc]
  exact (Transaction.takes_start ho _).trans (Transaction.takes_refused ho b .address rest)

/-- The report of a transaction that has sent and received nothing, and was refused. -/
theorem Transaction.report_refused {t : Transaction} (hd : t.dataAcked = 0) (hr : t.received = []) {st : BusStatus}
    (h : st ≠ .ok) : t.report st = { status := st, count := 0, data := [] } := by
  cases hs : t.shape <;> simp [Transaction.report, Transaction.progress, hs, hd, hr, h]

/-! ### The reports of transactions -/

section
variable (e : Engine) (rq : Requester) (a : BitVec 7) (idx ds : List Byte)

/-- A read that the device acknowledges hands back the bytes it put on MDA (R110). -/
theorem Engine.read_endsWith : e.endsWith (.fresh rq .read a idx ds.length [])
    ([true] ++ ackedByte (addressByte a false) ++ idx.flatMap ackedByte ++ [true] ++ ackedByte (addressByte a true)
      ++ ds.flatMap ackedByte ++ [true]) .ok ds.length ds := by
  rw [Transaction.fresh_read]
  exact (((((Transaction.takes_addressed rfl _ _).trans (Transaction.takes_indexBytes rfl idx _)).trans
    (Transaction.takes_repStart rfl _)).trans (Transaction.takes_ackedByte rfl _ .address _)).trans
    (Transaction.takes_receivedBytes rfl rfl ds _)).trans (Transaction.takes_stop rfl) |>.endsWith e rfl

/-- A write whose every byte is acknowledged counts its data (R110). -/
theorem Engine.write_endsWith : e.endsWith (.fresh rq .write a idx ds.length ds)
    ([true] ++ ackedByte (addressByte a false) ++ idx.flatMap ackedByte ++ ds.flatMap ackedByte ++ [true])
    .ok ds.length [] := by
  have hreport : ds.length = 0 + ds.length := (Nat.zero_add _).symm
  rw [Transaction.fresh_write, hreport]
  exact (((Transaction.takes_addressed rfl _ _).trans (Transaction.takes_indexBytes rfl idx _)).trans
    (Transaction.takes_dataBytes rfl ds _)).trans (Transaction.takes_stop rfl) |>.endsWith e rfl

/-- A send of a byte that is acknowledged counts it (R110). -/
theorem Engine.send_endsWith (b : Byte) : e.endsWith (.fresh rq .send a [] 1 [b])
    ([true] ++ ackedByte (addressByte a false) ++ ackedByte b ++ [true]) .ok 1 [] := by
  rw [Transaction.fresh_send]
  exact ((Transaction.takes_addressed rfl _ _).trans (Transaction.takes_ackedByte rfl b .data _)).trans
    (Transaction.takes_stop rfl) |>.endsWith e rfl

/-- A receive hands back the byte on MDA, which the engine does not acknowledge, it being the last (R106, R110). -/
theorem Engine.recv_endsWith (b : Byte) : e.endsWith (.fresh rq .recv a [] 1 [])
    ([true] ++ ackedByte (addressByte a true) ++ nackedByte b ++ [true]) .ok 1 [b] := by
  rw [Transaction.fresh_recv]
  exact ((Transaction.takes_addressed rfl _ _).trans (Transaction.takes_receivedByte rfl rfl b true true _)).trans
    (Transaction.takes_stop rfl) |>.endsWith e rfl

/-- A probe that is acknowledged ends OK (R110). -/
theorem Engine.probe_endsWith : e.endsWith (.fresh rq .probe a [] 0 [])
    ([true] ++ ackedByte (addressByte a false) ++ [true]) .ok 0 [] := by
  rw [Transaction.fresh_probe]
  exact (Transaction.takes_addressed rfl _ _).trans (Transaction.takes_stop rfl) |>.endsWith e rfl

/-- A refused address byte for writing (R109). -/
theorem Engine.endsWith_nackAddr_writing {sh : Shape} (h : sh ≠ .recv) (n : Nat) : e.endsWith (.fresh rq sh a idx n ds)
    ([true] ++ nackedByte (addressByte a false) ++ [true]) .nackAddr 0 [] := by
  obtain ⟨rest, hfresh⟩ := Transaction.fresh_writing rq a idx ds n h
  rw [hfresh]
  exact (Transaction.takes_notAddressed rfl _ _).endsWith e (Transaction.report_refused rfl rfl (by simp))

/-- A refused address byte of a receive (R109). -/
theorem Engine.endsWith_nackAddr_recv (n : Nat) : e.endsWith (.fresh rq .recv a idx n ds)
    ([true] ++ nackedByte (addressByte a true) ++ [true]) .nackAddr 0 [] := by
  rw [Transaction.fresh_recv]
  exact (Transaction.takes_notAddressed rfl _ _).endsWith e (Transaction.report_refused rfl rfl (by simp))

/-- A refused address byte after the repeated START of a read (R109). -/
theorem Engine.endsWith_nackAddr_reading (n : Nat) : e.endsWith (.fresh rq .read a idx n ds)
    ([true] ++ ackedByte (addressByte a false) ++ idx.flatMap ackedByte ++ [true] ++ nackedByte (addressByte a true)
      ++ [true]) .nackAddr 0 [] := by
  rw [Transaction.fresh_read, List.append_assoc _ (nackedByte _)]
  exact (((Transaction.takes_addressed rfl _ _).trans (Transaction.takes_indexBytes rfl idx _)).trans
    (Transaction.takes_repStart rfl _)).trans (Transaction.takes_refused rfl _ .address _)
    |>.endsWith e (Transaction.report_refused rfl rfl (by simp [refusalOf]))

/-- A refused index byte (R109). -/
theorem Engine.endsWith_nackData_index {sh : Shape} (h : sh = .read ∨ sh = .write) (pre : List Byte) (b : Byte)
    (post : List Byte) (n : Nat) : e.endsWith (.fresh rq sh a (pre ++ b :: post) n ds)
    ([true] ++ ackedByte (addressByte a false) ++ pre.flatMap ackedByte ++ nackedByte b ++ [true]) .nackData 0 [] := by
  obtain ⟨rest, hfresh⟩ := Transaction.fresh_indexed rq a (pre ++ b :: post) ds n h
  rw [hfresh, sendAll_split, List.append_assoc _ (nackedByte b)]
  exact ((Transaction.takes_addressed rfl _ _).trans (Transaction.takes_indexBytes rfl pre _)).trans
    (Transaction.takes_refused rfl b .index _) |>.endsWith e (Transaction.report_refused rfl rfl (by simp [refusalOf]))

/-- A refused data byte of a write: those before it count (R109, R110). -/
theorem Engine.endsWith_nackData_write (pre : List Byte) (b : Byte) (post : List Byte) (n : Nat) :
    e.endsWith (.fresh rq .write a idx n (pre ++ b :: post))
    ([true] ++ ackedByte (addressByte a false) ++ idx.flatMap ackedByte ++ pre.flatMap ackedByte ++ nackedByte b
      ++ [true]) .nackData pre.length [] := by
  have hcount : pre.length = 0 + pre.length := (Nat.zero_add _).symm
  rw [Transaction.fresh_write, sendAll_split, List.append_assoc _ (nackedByte b), hcount]
  exact (((Transaction.takes_addressed rfl _ _).trans (Transaction.takes_indexBytes rfl idx _)).trans
    (Transaction.takes_dataBytes rfl pre _)).trans (Transaction.takes_refused rfl b .data _) |>.endsWith e rfl

/-- The refused data byte of a send (R109). -/
theorem Engine.endsWith_nackData_send (b : Byte) : e.endsWith (.fresh rq .send a [] 1 [b])
    ([true] ++ ackedByte (addressByte a false) ++ nackedByte b ++ [true]) .nackData 0 [] := by
  rw [Transaction.fresh_send, List.append_assoc _ (nackedByte b)]
  exact (Transaction.takes_addressed rfl _ _).trans (Transaction.takes_refused rfl b .data _)
    |>.endsWith e (Transaction.report_refused rfl rfl (by simp [refusalOf]))

end

/-! ### One sample -/

/-- A low level where the engine relies on high is a stuck line (R111, R114). -/
theorem Transaction.sample_stuck {t : Transaction} {w : WireSlot} {rest : List WireSlot} (hs : t.slots = w :: rest)
    (hw : reliesOnHigh w = true) : t.sample false = { t with outcome := some .stuck } := by
  simp [Transaction.sample, hs, hw]

/-- No other point but the STOP's release gives a transaction its outcome. -/
theorem Transaction.outcome_sample {t : Transaction} {w : WireSlot} {rest : List WireSlot} (hs : t.slots = w :: rest)
    (hw : reliesOnHigh w = false) (b : Bool) : (t.sample b).outcome = t.outcome := by
  have hshift : (t.shift b).outcome = t.outcome := by
    unfold Transaction.shift
    split <;> rfl
  cases w with
  | stop => simp [reliesOnHigh] at hw
  | ack what => cases what <;> cases b <;> simp [Transaction.sample, hs, reliesOnHigh, Transaction.acked]
  | recvBit => simpa [Transaction.sample, hs, reliesOnHigh] using hshift
  | _ => simp [Transaction.sample, hs, hw]

/-- The points that rely on MDA being high (R114). -/
theorem reliesOnHigh_iff {w : WireSlot} : reliesOnHigh w = true ↔ w = .sendBit true ∨ w = .repStart ∨ w = .stop := by
  cases w <;> simp [reliesOnHigh]

/-- A transaction waits for its START exactly at that point. -/
theorem Transaction.atStart_iff {t : Transaction} {w : WireSlot} {rest : List WireSlot} (hs : t.slots = w :: rest) :
    t.atStart = true ↔ w = .start := by
  simp [Transaction.atStart, hs]

/-! ### The lines -/

/-- MDA at a START and at a repeated START: released until it has been read high (R105). -/
theorem releasesMda_start {w : WireSlot} (h : w = .start ∨ w = .repStart) (m : WireMoment) :
    releasesMda m w = true ↔ m ≠ .high ∧ m ≠ .ended := by
  rcases h with rfl | rfl <;> cases m <;> simp [releasesMda]

/-- MCK of any other point but a STOP is that of a clock pulse; MDA then decides what the pulse carries (R104, R106). -/
theorem Engine.pulses_of_lines {e : Engine} {w : WireSlot} {b : Bool}
    (hlines : ∀ m, e.mdaAt m = releasesMda m w ∧ e.mckAt m = releasesMck m w) (hs : w ≠ .start) (hp : w ≠ .stop)
    (hb : ∀ m, releasesMda m w = b) : e.pulses b := by
  refine ⟨fun m => ?_, fun m => (hlines m).1.trans (hb m)⟩
  rw [(hlines m).2, releasesMck_iff]
  simp [hs, hp]

/-- Settles O41: whole transactions are taken through their samples element by element; one sample is judged by its
point; the lines are read off the tables of their levels. -/
theorem wireCarriesBytes : Obligations.WireCarriesBytes := by
  refine ⟨fun e rq a idx ds => ?transactions, fun e t w rest hr ht hs => ?points, fun e m h => Engine.lines_still h m,
    fun t => by cases hs : t.shape <;> simp [Transaction.report, Transaction.progress, hs]⟩
  case transactions =>
    exact ⟨fun _ => e.read_endsWith rq a idx ds, e.write_endsWith rq a idx ds, e.send_endsWith rq a,
      e.recv_endsWith rq a, e.probe_endsWith rq a, fun sh n h => e.endsWith_nackAddr_writing rq a idx ds h n,
      e.endsWith_nackAddr_recv rq a idx ds, e.endsWith_nackAddr_reading rq a idx ds,
      fun sh pre b post n h => e.endsWith_nackData_index rq a ds h pre b post n,
      e.endsWith_nackData_write rq a idx, e.endsWith_nackData_send rq a⟩
  case points =>
    have hstart := Transaction.atStart_iff hs
    refine ⟨fun hw => ⟨?started, ?blocked⟩, fun hw => ?stuck, fun hw b => ?passed, fun ho => ?lines⟩
    case started =>
      rw [Engine.sample_transaction hr ht (.inr rfl)]
      simp [Transaction.sample, hs, hw, reliesOnHigh]
    case blocked => simp [Engine.sample, hr, ht, hstart.mpr hw, Recovery.fresh]
    case stuck =>
      have hpast : t.atStart = false := by rw [← Bool.not_eq_true, hstart]; rintro rfl; simp at hw
      rw [Engine.sample_transaction hr ht (.inl hpast), Transaction.sample_stuck hs (reliesOnHigh_iff.mpr hw)]
    case passed =>
      have hpast : t.atStart = false := by rw [← Bool.not_eq_true, hstart]; rintro rfl; simp at hw
      have hlow : reliesOnHigh w = false := by
        rw [← Bool.not_eq_true, reliesOnHigh_iff]
        rintro (rfl | rfl | rfl) <;> simp at hw
      rw [Engine.sample_transaction hr ht (.inl hpast)]
      exact ⟨hr, congrArg some (Transaction.outcome_sample hs hlow b)⟩
    case lines =>
      have hlines := Engine.lines_transaction hr ht ho hs
      refine ⟨?stop, fun hw => ⟨fun m => ?mda, fun m => ?mck⟩, ?sent, ?acknowledged, ?received⟩
      case stop =>
        rintro rfl
        refine ⟨fun m => ?_, fun m => by rw [(hlines m).1, releasesMda_stop]⟩
        rw [(hlines m).2, releasesMck_iff]
        simp
      case mda => rw [(hlines m).1, releasesMda_start hw]
      case mck =>
        have hne : w ≠ .stop := by rintro rfl; simp at hw
        rw [(hlines m).2, releasesMck_iff, and_comm]
        simp [hne]
      case sent =>
        rintro b rfl
        exact Engine.pulses_of_lines hlines (by simp) (by simp) fun m => by cases m <;> rfl
      case acknowledged =>
        rintro k rfl
        exact Engine.pulses_of_lines hlines (by simp) (by simp) fun m => by cases m <;> rfl
      case received =>
        rintro (⟨what, rfl⟩ | rfl) <;>
          exact Engine.pulses_of_lines hlines (by simp) (by simp) fun m => by cases m <;> rfl

end Sys2Proof.Machine

/-! SUPPORT. The standing of a port (its state, level and hold origin), the operations and rules that leave it alone, and
what a frame end can do. -/

namespace Sys2Proof.Machine

/-! ### Steps that leave every port's standing alone -/

/-- What R139 asks of a port: its state, its level and its hold origin. -/
def PortUnit.standing (u : PortUnit) : PortState × Level × Option HoldOrigin := (u.state, u.level, u.origin)

/-- A port with other parts replaced stands as before. (The parentheses round `rfl` here and below keep these lemmas from
being used by definitional unfolding alone, for `simp` could then not prove with them the side conditions of
`sameStanding_modPort` and `sameStanding_mapPorts`.) -/
@[simp] theorem PortUnit.standing_with (u : PortUnit) (cause : ResetCause) (r : ResultCode) (rs : List Request)
    (cs : List Completion) (n : Nat) (f : FrameState) (nu : NotifyUnit) (d : Option Nat) (m : Bool) :
    ({ u with resetCause := cause, lastResult := r, requests := rs, completions := cs, credits := n, frame := f,
              notify := nu, deferral := d, lockedMark := m } : PortUnit).standing = u.standing := (rfl)

@[simp] theorem PortUnit.standing_modNotify (u : PortUnit) (f : NotifyUnit → NotifyUnit) :
    (u.modNotify f).standing = u.standing := (rfl)

@[simp] theorem PortUnit.standing_raise (u : PortUnit) (f : Flag) : (u.raise f).standing = u.standing := by
  rw [PortUnit.raise_eq, PortUnit.standing_with]

@[simp] theorem PortUnit.standing_notice (u : PortUnit) (e : EntryNo) : (u.notice e).standing = u.standing := by
  simp [PortUnit.notice]

@[simp] theorem PortUnit.standing_dropHead (u : PortUnit) : u.dropHead.standing = u.standing := (rfl)

@[simp] theorem PortUnit.standing_takeHead (u : PortUnit) : u.takeHead.standing = u.standing := (rfl)

@[simp] theorem PortUnit.standing_removeTag (u : PortUnit) (tag : Byte) :
    (u.removeTag tag).standing = u.standing := by
  unfold PortUnit.removeTag
  split <;> simp

@[simp] theorem State.standing_judgedPort (s : State) (p : Port) (u : PortUnit) :
    (s.judgedPort p u).standing = u.standing := by
  rw [State.judgedPort_eq, PortUnit.standing_with]

/-- Every port stands in `t` as in `s`. -/
def State.sameStanding (s t : State) : Prop := ∀ p, (t.port p).standing = (s.port p).standing

@[simp] theorem State.sameStanding_refl (s : State) : s.sameStanding s := fun _ => rfl

theorem State.sameStanding.trans {s t u : State} (h : s.sameStanding t) (h' : t.sameStanding u) : s.sameStanding u :=
  fun p => (h' p).trans (h p)

section
variable {s t : State}

/-- Only the standings themselves count. -/
theorem State.sameStanding_congr {t' : State} (h : ∀ p, (t'.port p).standing = (t.port p).standing) :
    s.sameStanding t' ↔ s.sameStanding t :=
  forall_congr' fun p => by rw [h p]

@[simp] theorem State.sameStanding_modPort {p : Port} {f : PortUnit → PortUnit}
    (h : ∀ u, (f u).standing = u.standing) : s.sameStanding (t.modPort p f) ↔ s.sameStanding t :=
  State.sameStanding_congr fun q => by
    rw [State.port_modPort]
    split
    · exact h _
    · rfl

@[simp] theorem State.sameStanding_mapPorts {f : Port → PortUnit → PortUnit}
    (h : ∀ p u, (f p u).standing = u.standing) : s.sameStanding (t.mapPorts f) ↔ s.sameStanding t :=
  State.sameStanding_congr fun q => by rw [State.port_mapPorts, h]

@[simp] theorem State.sameStanding_setResult {p : Port} {r : ResultCode} :
    s.sameStanding (t.setResult p r) ↔ s.sameStanding t := by simp [State.setResult]

@[simp] theorem State.sameStanding_setEntry {e : EntryNo} {x : Option Entry} :
    s.sameStanding (t.setEntry e x) ↔ s.sameStanding t := Iff.rfl

@[simp] theorem State.sameStanding_modEntry {e : EntryNo} {f : Entry → Entry} :
    s.sameStanding (t.modEntry e f) ↔ s.sameStanding t := Iff.rfl

@[simp] theorem State.sameStanding_mapEntries {f : Entry → Entry} :
    s.sameStanding (t.mapEntries f) ↔ s.sameStanding t := State.sameStanding_congr fun q => by simp

@[simp] theorem State.sameStanding_setPoll {k : SlotNo} {q : Option Poll} :
    s.sameStanding (t.setPoll k q) ↔ s.sameStanding t := Iff.rfl

@[simp] theorem State.sameStanding_mapPolls {f : Option Poll → Option Poll} :
    s.sameStanding (t.mapPolls f) ↔ s.sameStanding t := State.sameStanding_congr fun q => by simp

@[simp] theorem State.sameStanding_setCurrent {c : Option Current} :
    s.sameStanding (t.setCurrent c) ↔ s.sameStanding t := Iff.rfl

@[simp] theorem State.sameStanding_setTurn {p : Position} : s.sameStanding (t.setTurn p) ↔ s.sameStanding t := Iff.rfl

@[simp] theorem State.sameStanding_setEngine {e : Engine} : s.sameStanding (t.setEngine e) ↔ s.sameStanding t := Iff.rfl

@[simp] theorem State.sameStanding_busRuns {l : List Bool} {m : Bool} :
    s.sameStanding (t.busRuns l m) ↔ s.sameStanding t := Iff.rfl

@[simp] theorem State.sameStanding_tickTime : s.sameStanding t.tickTime ↔ s.sameStanding t :=
  State.sameStanding_congr fun q => by simp

@[simp] theorem State.sameStanding_raise {p : Port} {f : Flag} : s.sameStanding (t.raise p f) ↔ s.sameStanding t :=
  State.sameStanding_modPort (by simp)

@[simp] theorem State.sameStanding_raiseIn {who : Port → Bool} {f : Flag} :
    s.sameStanding (t.raiseIn who f) ↔ s.sameStanding t :=
  State.sameStanding_mapPorts fun p u => by split <;> simp

@[simp] theorem State.sameStanding_raiseAll {f : Flag} : s.sameStanding (t.raiseAll f) ↔ s.sameStanding t :=
  State.sameStanding_raiseIn

@[simp] theorem State.sameStanding_raisePeer {p : Port} : s.sameStanding (t.raisePeer p) ↔ s.sameStanding t :=
  State.sameStanding_raiseIn

@[simp] theorem State.sameStanding_judgeHead {p : Port} : s.sameStanding (t.judgeHead p) ↔ s.sameStanding t :=
  State.sameStanding_modPort (by simp)

@[simp] theorem State.sameStanding_closeFrame {p : Port} : s.sameStanding (t.closeFrame p) ↔ s.sameStanding t :=
  State.sameStanding_modPort (by simp)

@[simp] theorem State.sameStanding_append {recs : List (Port × Completion)} :
    s.sameStanding (t.append recs) ↔ s.sameStanding t := State.sameStanding_congr fun q => by simp

@[simp] theorem State.sameStanding_settle {recs : List (Port × Completion)} :
    s.sameStanding (t.settle recs) ↔ s.sameStanding t := State.sameStanding_congr fun q => by
  rw [State.port_settle, PortUnit.standing_with, State.standing_judgedPort]

@[simp] theorem State.sameStanding_markLockLost {e : EntryNo} {p : Port} :
    s.sameStanding (t.markLockLost e p) ↔ s.sameStanding t := by simp [State.markLockLost_eq]

/-- An address outcome raises an event at most (R16). -/
@[simp] theorem State.sameStanding_relayHealth {e : EntryNo} {out : AddressOutcome} :
    s.sameStanding (t.relayHealth e out) ↔ s.sameStanding t := by
  unfold State.relayHealth
  cases t.entry e with
  | none => rfl
  | some x =>
    simp only
    split
    · simp
    · split <;> simp

@[simp] theorem State.sameStanding_writeNotice {e : EntryNo} {p : Port} :
    s.sameStanding (t.writeNotice e p) ↔ s.sameStanding t := by
  unfold State.writeNotice
  cases t.entry e with
  | none => rfl
  | some x => exact State.sameStanding_mapPorts fun p u => by split <;> simp

/-- A release takes a head at most, whoever the lock passes to (R76). -/
@[simp] theorem State.sameStanding_release {e : EntryNo} {reason : ReleaseReason} :
    s.sameStanding (t.release e reason).1 ↔ s.sameStanding t := by
  unfold State.release
  simp only
  split
  · simp
  · split
    · simp
    · split <;> simp [State.handOver]

/-- The release of several locks, one after the other, does no more than that. -/
@[simp] theorem State.sameStanding_releaseOwned (p : Port) (l : List EntryNo) (x : State × List (Port × Completion)) :
    s.sameStanding (State.releaseOwned p l x).1 ↔ s.sameStanding x.1 := by
  induction l generalizing x with
  | nil => rfl
  | cons e es ih =>
    unfold State.releaseOwned
    split <;> simp [ih]

end

/-! ### The frames' own rules -/

theorem sameStanding_submitRule (p : Port) (f : FrameEnd) (s : State) : s.sameStanding (submitRule p f s) := by
  have hsubmit : s.sameStanding (s.submit p f.args) := by
    unfold State.submit
    cases decodeRequest f.args with
    | none => simp
    | some r =>
      simp only
      split
      · simp
      · split
        · simp
        · cases s.accessCheck p r <;> simp
  unfold submitRule
  split
  · simp
  · exact hsubmit

theorem sameStanding_fetchRule (p : Port) (f : FrameEnd) (s : State) : s.sameStanding (fetchRule p f s) := by
  unfold fetchRule
  split
  · simp
  · split
    · simp
    · split
      · split <;> simp
      · simp

theorem State.sameStanding_cancelPoll (s : State) (k : SlotNo) : s.sameStanding (s.cancelPoll k) := by
  unfold State.cancelPoll
  cases s.poll k with
  | none => simp
  | some q => simp only; split <;> simp

theorem sameStanding_cancelRule (p : Port) (f : FrameEnd) (s : State) : s.sameStanding (cancelRule p f s) := by
  unfold cancelRule
  simp only
  split
  · simp
  · split
    · simp
    · cases s.pollTagged p (f.arg 0) with
      | some k => simp [s.sameStanding_cancelPoll k]
      | none => simp only; split <;> simp

theorem sameStanding_eventsRule (p : Port) (f : FrameEnd) (s : State) : s.sameStanding (eventsRule p f s) := by
  unfold eventsRule
  cases f.clearList with
  | flags l => simp only; split <;> simp
  | absent | entries => simp

theorem sameStanding_changesRule (p : Port) (f : FrameEnd) (s : State) : s.sameStanding (changesRule p f s) := by
  unfold changesRule
  split
  · simp
  · cases f.clearList with
    | entries l => simp only; split <;> simp
    | absent | flags => simp

theorem sameStanding_watchRule (p : Port) (f : FrameEnd) (s : State) : s.sameStanding (watchRule p f s) := by
  unfold watchRule
  split
  · simp
  · cases entryOfByte (f.arg 0) with
    | none => simp
    | some e =>
      cases he : s.entry e with
      | none => simp [he]
      | some x => simp only [he]; split <;> simp

theorem sameStanding_unwatchRule (p : Port) (f : FrameEnd) (s : State) : s.sameStanding (unwatchRule p f s) := by
  unfold unwatchRule
  cases entryOfByte (f.arg 0) with
  | none => simp
  | some e => cases he : s.entry e <;> simp [he]

theorem sameStanding_renewRule (p : Port) (f : FrameEnd) (s : State) : s.sameStanding (renewRule p f s) := by
  unfold renewRule
  split
  · simp
  · cases entryOfByte (f.arg 0) with
    | none => simp
    | some e => simp only; split <;> simp

theorem sameStanding_dirWriteRule (p : Port) (f : FrameEnd) (s : State) : s.sameStanding (dirWriteRule p f s) := by
  unfold dirWriteRule
  simp only
  repeat' split
  all_goals simp

theorem sameStanding_dirClearRule (p : Port) (f : FrameEnd) (s : State) : s.sameStanding (dirClearRule p f s) := by
  unfold dirClearRule
  split
  · simp
  · split
    · simp
    · cases entryOfByte (f.arg 0) <;> simp

theorem sameStanding_sealRule (p : Port) (f : FrameEnd) (s : State) : s.sameStanding (sealRule p f s) := by
  unfold sealRule
  split
  · simp
  · split
    · simp
    · exact State.sameStanding_setResult.mpr fun _ => rfl

/-! ### What a frame end can do -/

/-- A frame end is not judged; or it closes the frame with a refusal of the port-level handling, or as the command's own
rule says, which runs on a port that is not OFFLINE, and ACTIVE but for STATUS and RELEASE (R128, R129, R144). -/
theorem State.frameEnd_cases {P : State → Prop} (s : State) (p : Port) (c : Command) (bits : List Bool)
    (rule : FrameEnd → State → State) (nothing : P s) (unjudged : P (s.unjudgedEnd p))
    (refused : ∀ r, P ((s.closeFrame p).setResult p r))
    (judged : ∀ f, (s.port p).state ≠ .offline → (c ≠ .status → c ≠ .release → (s.port p).state = .active) →
      P (rule f (s.closeFrame p))) : P (s.frameEnd p c bits rule) := by
  have hstate : ((s.closeFrame p).port p).state = (s.port p).state := by simp [State.closeFrame]
  unfold State.frameEnd
  cases hf : s.frameAt p bits with
  | none => exact unjudged
  | some x =>
    have hoff : (s.port p).state ≠ .offline := fun h => by simp [State.frameAt, h] at hf
    simp only
    split
    · unfold State.portLevel
      rw [hstate]
      split
      · exact refused _
      next hheld =>
        split
        · exact refused _
        · split
          · exact refused _
          · refine judged _ hoff fun hs hr => ?_
            cases hst : (s.port p).state with
            | active => rfl
            | held => exact absurd ⟨hst, hs, hr⟩ hheld
            | offline => exact absurd hst hoff
    · exact nothing

theorem State.sameStanding_unjudgedEnd (s : State) (p : Port) : s.sameStanding (s.unjudgedEnd p) := by
  unfold State.unjudgedEnd
  split <;> simp

/-- A frame end leaves every port's standing alone when its command's own rule does. -/
theorem State.sameStanding_frameEnd (s : State) (p : Port) (c : Command) (bits : List Bool)
    {rule : FrameEnd → State → State} (hrule : ∀ (f : FrameEnd) (u : State), u.sameStanding (rule f u)) :
    s.sameStanding (s.frameEnd p c bits rule) :=
  s.frameEnd_cases p c bits rule s.sameStanding_refl (s.sameStanding_unjudgedEnd p) (fun r => by simp)
    fun f _ _ => State.sameStanding.trans (by simp) (hrule f (s.closeFrame p))

theorem sameStanding_execFrameOpen {p : Port} {s t : State} (h : execFrameOpen p s = .next t) : s.sameStanding t := by
  cases h
  split
  · simp
  · split <;> simp

theorem sameStanding_execResponseSnapshot {p : Port} {b : Byte} {s t : State}
    (h : execResponseSnapshot p b s = .next t) : s.sameStanding t := by
  cases h
  split
  · simp
  · split
    · split <;> simp [State.snapshot]
    all_goals simp

theorem sameStanding_execIgnoredFrame {p : Port} {bits : List Bool} {s t : State}
    (h : execIgnoredFrame p bits s = .next t) : s.sameStanding t := by
  cases h
  split
  · split <;> simp
  all_goals exact s.sameStanding_unjudgedEnd p

theorem sameStanding_execUnknownCommand {p : Port} {bits : List Bool} {s t : State}
    (h : execUnknownCommand p bits s = .next t) : s.sameStanding t := by
  cases h
  split
  · split <;> simp
  · exact s.sameStanding_unjudgedEnd p

/-! ### Heads and expiries -/

theorem sameStanding_execFenceHead {p : Port} {s t : State} (h : execFenceHead p s = .next t) : s.sameStanding t := by
  cases h
  split
  · simp
  · split <;> simp

theorem sameStanding_execPollParking {p : Port} {s t : State} (h : execPollParking p s = .next t) :
    s.sameStanding t := by
  cases h
  split
  · simp
  · split <;> simp

theorem sameStanding_execLockHead {p : Port} {s t : State} (h : execLockHead p s = .next t) : s.sameStanding t := by
  cases h
  split
  · split <;> simp
  · simp

theorem sameStanding_execUnlockHead {p : Port} {s t : State} (h : execUnlockHead p s = .next t) :
    s.sameStanding t := by
  cases h
  split
  · simp
  · split <;> simp

theorem sameStanding_execBreakHead {p : Port} {s t : State} (h : execBreakHead p s = .next t) : s.sameStanding t := by
  cases h
  split
  · simp
  · simp only
    split
    · simp
    · split
      · simp
      · split <;> simp [State.breakLock]

theorem sameStanding_execEndWithoutBus {p : Port} {s t : State} (h : execEndWithoutBus p s = .next t) :
    s.sameStanding t := by
  cases h
  split <;> simp

theorem sameStanding_execLeaseExpiry {e : EntryNo} {s t : State} (h : execLeaseExpiry e s = .next t) :
    s.sameStanding t := by
  cases h
  split
  · simp
  · split
    · simp
    · split <;> simp

theorem sameStanding_execDeferralExpiry {p : Port} {s t : State} (h : execDeferralExpiry p s = .next t) :
    s.sameStanding t := by
  cases h
  split
  · simp
  · split <;> simp

theorem sameStanding_execBlockExpiry {k : SlotNo} {s t : State} (h : execBlockExpiry k s = .next t) :
    s.sameStanding t := by
  cases h
  split
  · simp
  · split <;> simp

theorem sameStanding_execPollDue {k : SlotNo} {s t : State} (h : execPollDue k s = .next t) : s.sameStanding t := by
  cases h
  split
  · simp
  · split <;> simp

/-- TICK moves deferral timers, and no more of a port. -/
theorem sameStanding_execTick {bus : BusRead} {s t : State} (h : execTick bus s = .next t) : s.sameStanding t := by
  cases h
  intro p
  rw [State.port_tickTime, State.port_tick, State.tickPort_eq]
  split <;> simp

end Sys2Proof.Machine

/-! SUPPORT. HOLD, RELEASE, restarts and the ends of loads, which move the standing of ports, and the statement that some
level-0 port can always release. -/

namespace Sys2Proof.Machine

/-- A port that stands so can release itself, or others: it is at level 0 and ACTIVE, or held by itself (R139). -/
def standingCanRelease (st : PortState × Level × Option HoldOrigin) : Prop :=
  st.2.1 = 0 ∧ (st.1 = .active ∨ (st.1 = .held ∧ st.2.2 = some .self))

theorem State.someoneCanRelease_iff {s : State} :
    s.someoneCanRelease ↔ ∃ p, standingCanRelease (s.port p).standing := Iff.rfl

/-- With every port standing as before, who can release still can. -/
theorem State.sameStanding.someoneCanRelease {s t : State} (h : s.sameStanding t) (hs : s.someoneCanRelease) :
    t.someoneCanRelease := by
  obtain ⟨p, hp⟩ := State.someoneCanRelease_iff.mp hs
  exact State.someoneCanRelease_iff.mpr ⟨p, (h p).symm ▸ hp⟩

/-! ### HOLD and RELEASE -/

/-- A HOLD moves the standing of its target alone (R137). -/
theorem State.standing_holdPort (s : State) (t : Port) (o : HoldOrigin) (q : Port) :
    ((s.holdPort t o).port q).standing
      = if q = t then (.held, (s.port t).level, some o) else (s.port q).standing := by
  have hrest : (s.modPort t fun u => u.hold o).sameStanding (s.holdPort t o) := by
    simp only [State.holdPort, State.sameStanding_settle, State.sameStanding_raisePeer, State.sameStanding_mapEntries,
      State.sameStanding_releaseOwned]
    exact fun _ => rfl
  rw [hrest q, State.port_modPort]
  split
  next h => subst h; rfl
  next => rfl

/-- A RELEASE makes its target ACTIVE and moves the standing of no other port (R141). -/
theorem State.standing_releasePort (s : State) (t q : Port) :
    ((s.releasePort t).port q).standing = if q = t then (.active, (s.port t).level, none) else (s.port q).standing := by
  have hrest : (s.modPort t fun u => { u with state := .active, origin := none, lastResult := .noCode }).sameStanding
      (s.releasePort t) := by simp [State.releasePort]
  rw [hrest q, State.port_modPort]
  split
  next h => subst h; rfl
  next => rfl

/-- A port that holds itself can release itself (R139). -/
theorem State.someoneCanRelease_holdSelf {s : State} (hs : s.someoneCanRelease) (t : Port) :
    (s.holdPort t .self).someoneCanRelease := by
  obtain ⟨q, hq⟩ := State.someoneCanRelease_iff.mp hs
  refine State.someoneCanRelease_iff.mpr ⟨q, ?_⟩
  rw [State.standing_holdPort]
  split
  next h => subst h; exact ⟨hq.1, .inr ⟨rfl, rfl⟩⟩
  next => exact hq

/-- A port that another, ACTIVE at level 0, holds can be released by that one. -/
theorem State.someoneCanRelease_holdOther {s : State} {p t : Port} (h : t ≠ p) (ha : (s.port p).state = .active)
    (hlevel : (s.port p).level = 0) (o : HoldOrigin) : (s.holdPort t o).someoneCanRelease := by
  refine State.someoneCanRelease_iff.mpr ⟨p, ?_⟩
  rw [State.standing_holdPort, if_neg h.symm]
  exact ⟨hlevel, .inl ha⟩

/-- A HOLD is of the sender itself, or its sender is of level 0 and stays ACTIVE (R136, R139). -/
theorem someoneCanRelease_holdRule {s : State} (hs : s.someoneCanRelease) {p : Port} (ha : (s.port p).state = .active)
    (f : FrameEnd) : (holdRule p f s).someoneCanRelease := by
  have hresult {r : ResultCode} : (s.setResult p r).someoneCanRelease :=
    State.sameStanding.someoneCanRelease (by simp) hs
  unfold holdRule
  cases portOfByte (f.arg 0) with
  | none => exact hresult
  | some t =>
    simp only
    split
    · exact hresult
    · split
      · exact hresult
      next hperm =>
        split
        · exact hresult
        · by_cases htp : t = p
          · rw [if_pos htp]
            exact State.someoneCanRelease_holdSelf hresult t
          · have hlevel : (s.port p).level = 0 := by_contra fun h => hperm ⟨htp, h⟩
            exact State.someoneCanRelease_holdOther htp (by simpa using ha) (by simpa using hlevel) _

/-- A RELEASE leaves its target ACTIVE, and so able to release if it was before. -/
theorem State.someoneCanRelease_releasePort {s : State} (hs : s.someoneCanRelease) (t : Port) :
    (s.releasePort t).someoneCanRelease := by
  obtain ⟨q, hq⟩ := State.someoneCanRelease_iff.mp hs
  refine State.someoneCanRelease_iff.mpr ⟨q, ?_⟩
  rw [State.standing_releasePort]
  split
  next h => subst h; exact ⟨hq.1, .inl rfl⟩
  next => exact hq

theorem someoneCanRelease_releaseRule {s : State} (hs : s.someoneCanRelease) (p : Port) (f : FrameEnd) :
    (releaseRule p f s).someoneCanRelease := by
  have hresult {r : ResultCode} : (s.setResult p r).someoneCanRelease :=
    State.sameStanding.someoneCanRelease (by simp) hs
  unfold releaseRule
  cases portOfByte (f.arg 0) with
  | none => exact hresult
  | some t =>
    simp only
    split
    · exact hresult
    · split
      · exact hresult
      · split
        · exact hresult
        · exact State.someoneCanRelease_releasePort hresult t

/-! ### Restarts and the ends of loads -/

/-- After a restart U0 is ACTIVE at level 0 (R123). -/
theorem State.someoneCanRelease_restart (s : State) (cause : ResetCause) (high : Bool) :
    (s.restart cause high).someoneCanRelease :=
  ⟨0, by simp [State.restart, State.port, PortUnit.initial, restartLevel]⟩

theorem someoneCanRelease_restartRule {s : State} (hs : s.someoneCanRelease) (p : Port) (f : FrameEnd) :
    (restartRule p f s).someoneCanRelease := by
  unfold restartRule
  split
  · exact State.sameStanding.someoneCanRelease (s := s) (by simp) hs
  · exact s.someoneCanRelease_restart .restart s.resetn

/-- The default settings of a load fault make U0 ACTIVE at level 0 (R167). -/
theorem State.someoneCanRelease_loadFault (s : State) (f : LoadFault) : (s.loadFault f).someoneCanRelease := by
  refine ⟨0, ?_⟩
  rw [State.port_loadFault, PortUnit.raise_eq]
  simp [PortUnit.defaultSettings, restartLevel]

/-- What a list that passes VALIDATING meets of the checks of R167. -/
theorem validate_eq_none {staged : List Byte} (h : validate staged = none) :
    headerBad staged = false ∧ (∀ r ∈ (walkFrom staged staged.length 8).1, r.valid = true)
      ∧ numbersAscend (walkFrom staged staged.length 8).1 = true := by
  unfold validate at h
  simp only at h
  split at h
  · cases h
  · split at h
    · cases h
    · split at h
      · cases h
      next hheader =>
        split at h
        · cases h
        next hrecords =>
          split at h
          · cases h
          next horder => exact ⟨by simpa using hheader, by simp_all, by simpa using horder⟩

/-- A valid list marks some port both enabled and at level 0 (R167, R174). -/
theorem enabled_of_validate {staged : List Byte} (h : validate staged = none) :
    ∃ p, (decodePortByte (stagedPortByte staged p)).enabled = true
      ∧ (decodePortByte (stagedPortByte staged p)).level = 0 := by
  obtain ⟨hheader, -⟩ := validate_eq_none h
  obtain ⟨-, hport⟩ := Bool.or_eq_false_iff.mp hheader
  simpa using hport

/-- A port after the commit has the settings of its port byte (R166). -/
theorem State.port_commit (s : State) (p : Port) :
    s.commit.port p = (s.port p).configured (decodePortByte (stagedPortByte s.loader.staging p)) := by
  simp [State.commit, State.port, State.mapPorts]

/-- So the commit makes a level-0 port ACTIVE (R166). -/
theorem State.someoneCanRelease_commit {s : State} (h : validate s.loader.staging = none) :
    s.commit.someoneCanRelease := by
  obtain ⟨p, henabled, hlevel⟩ := enabled_of_validate h
  exact ⟨p, by simp [State.port_commit, PortUnit.configured, henabled, hlevel]⟩

/-- The loader takes its report: the ports stay, or a load ends (R164 to R167). -/
theorem State.someoneCanRelease_loaderReport {s : State} (hs : s.someoneCanRelease) (r : Report) :
    (s.loaderReport r).someoneCanRelease := by
  unfold State.loaderReport
  split
  · simp only [State.stage]
    split
    · unfold State.finishLoad
      split
      · exact State.someoneCanRelease_loadFault _ _
      next hv => exact State.someoneCanRelease_commit hv
    · unfold State.startLoaderRead
      split <;> exact hs
  · exact s.someoneCanRelease_loadFault _
  · exact s.someoneCanRelease_loadFault _
  · split
    · exact s.someoneCanRelease_loadFault _
    · exact hs

/-! ### The ends of bus work -/

theorem State.sameStanding_enterFaulted (s : State) : s.sameStanding s.enterFaulted := by
  unfold State.enterFaulted
  simp only
  split <;> simp

theorem State.sameStanding_engineAfter (s : State) (st : BusStatus) (failed : Bool) :
    s.sameStanding (s.engineAfter st failed) := by
  unfold State.engineAfter
  split
  · exact s.sameStanding_enterFaulted
  · split <;> simp

/-- The scheduler takes a report: records, health and write notices leave every port's standing. -/
theorem State.sameStanding_schedulerReport (s : State) (r : Report) : s.sameStanding (s.schedulerReport r) := by
  have hslot (u : State) (k : SlotNo) : u.sameStanding (u.slotReport k r).1 := by
    unfold State.slotReport
    cases u.poll k with
    | none => simp
    | some q => simp only; split <;> simp
  unfold State.schedulerReport
  cases s.scheduler.current with
  | none => simp
  | some c =>
    cases hc : c.slot with
    | none =>
      simp only [hc, State.requestReport, State.sameStanding_settle]
      split <;> simp
    | some k =>
      simp only [hc, State.iterationReport]
      split
      · simp
      · exact State.sameStanding_settle.mpr (State.sameStanding.trans (by simp) (hslot _ k))

theorem State.someoneCanRelease_endTransaction {s : State} (hs : s.someoneCanRelease) (t : Transaction)
    (st : BusStatus) (failed : Bool) : (s.endTransaction t st failed).someoneCanRelease := by
  have hafter := (s.sameStanding_engineAfter st failed).someoneCanRelease hs
  unfold State.endTransaction
  cases t.requester with
  | scheduler => exact (State.sameStanding_schedulerReport _ _).someoneCanRelease hafter
  | loader => exact State.someoneCanRelease_loaderReport hafter _

/-- The end of a recovery: the ports stay, or a load ends (R117 to R121, R163, R165). -/
theorem State.someoneCanRelease_recoveryEnds {s : State} (hs : s.someoneCanRelease) (c : RecoveryCause) (ok : Bool) :
    (s.recoveryEnds c ok).someoneCanRelease := by
  have hfaulted := s.sameStanding_enterFaulted
  unfold State.recoveryEnds
  cases c with
  | blockedStart =>
    simp only
    split
    · exact State.sameStanding.someoneCanRelease (s := s) (by simp) hs
    · split
      · exact hs
      · exact State.someoneCanRelease_endTransaction hs _ _ _
  | afterStuck =>
    simp only
    split
    · exact State.someoneCanRelease_loadFault _ _
    · refine State.sameStanding.someoneCanRelease ?_ hs
      rw [State.sameStanding_settle]
      split
      · simp
      · exact hfaulted
  | retry =>
    refine State.sameStanding.someoneCanRelease ?_ hs
    simp only
    split
    · rw [State.sameStanding_settle]
      split <;> simp
    · exact State.sameStanding_settle.mpr hfaulted
  | startUp =>
    simp only
    split
    · unfold State.startLoaderRead
      split <;> exact hs
    · exact State.someoneCanRelease_loadFault _ _

/-- A report step: what takes the outcome decides. -/
theorem State.someoneCanRelease_afterReading {α : Type} {s : State} (hs : s.someoneCanRelease) (bus : BusRead)
    (ended : State → Option α) {act : α → State → State}
    (hact : ∀ x (u : State), u.someoneCanRelease → (act x u).someoneCanRelease) :
    (s.afterReading bus ended act).someoneCanRelease := by
  unfold State.afterReading
  simp only
  split
  · exact hs
  · exact hact _ (s.setEngine _) hs

theorem State.someoneCanRelease_stretchLimit {s : State} (hs : s.someoneCanRelease) :
    s.stretchLimit.someoneCanRelease := by
  unfold State.stretchLimit
  split
  · exact State.someoneCanRelease_recoveryEnds hs _ _
  · split
    · exact hs
    · split
      · exact hs
      · exact State.someoneCanRelease_endTransaction hs _ _ _

/-- A grant takes a head or a slot, and leaves every port's standing (R62). -/
theorem sameStanding_execGrant {bus : BusRead} {s t : State} (h : execGrant bus s = .next t) : s.sameStanding t := by
  cases h
  split
  · simp
  next pos _ =>
    rw [State.sameStanding_busRuns]
    cases pos with
    | port p =>
      unfold State.grantAt
      simp only
      split
      · simp
      · simp [State.grantPort, State.reloadIfOwner]
    | poll =>
      unfold State.grantAt
      simp only
      repeat' split
      all_goals simp [State.grantPoll, State.reloadIfOwner]

/-! ### Every step -/

/-- Every command leaves some level-0 port able to release. -/
theorem State.someoneCanRelease_exec {c : Instr} {s t : State} (hs : s.someoneCanRelease) (h : exec c s = .next t) :
    t.someoneCanRelease := by
  have hclose (p : Port) : (s.closeFrame p).someoneCanRelease :=
    State.sameStanding.someoneCanRelease (s := s) (by simp) hs
  have hframe {p : Port} {c : Command} {bits : List Bool} {rule : FrameEnd → State → State}
      (hrule : ∀ (f : FrameEnd) (u : State), u.sameStanding (rule f u)) :
      (s.frameEnd p c bits rule).someoneCanRelease :=
    (s.sameStanding_frameEnd p c bits hrule).someoneCanRelease hs
  have hports {p : Port} {c : Command} {bits : List Bool} {rule : FrameEnd → State → State}
      (hrule : ∀ f, (c ≠ .status → c ≠ .release → (s.port p).state = .active) →
        (rule f (s.closeFrame p)).someoneCanRelease) : (s.frameEnd p c bits rule).someoneCanRelease :=
    s.frameEnd_cases p c bits rule hs ((s.sameStanding_unjudgedEnd p).someoneCanRelease hs)
      (fun r => State.sameStanding.someoneCanRelease (s := s) (by simp) hs) fun f _ ha => hrule f ha
  match c, h with
  | .powerOn high, h => cases h; exact s.someoneCanRelease_restart .powerOn high
  | .resetnFall, h => cases h; exact s.someoneCanRelease_restart .pin false
  | .loaderStart a b bus, h =>
    cases h
    split <;> exact hs
  | .tick bus, h => exact (sameStanding_execTick h).someoneCanRelease hs
  | .frameOpen p, h => exact (sameStanding_execFrameOpen h).someoneCanRelease hs
  | .responseSnapshot p b, h => exact (sameStanding_execResponseSnapshot h).someoneCanRelease hs
  | .ignoredFrame p bits, h => exact (sameStanding_execIgnoredFrame h).someoneCanRelease hs
  | .unknownCommand p bits, h => exact (sameStanding_execUnknownCommand h).someoneCanRelease hs
  | .status p bits, h => cases h; exact hframe fun f u => by simp [statusRule]
  | .submit p bits, h => cases h; exact hframe (sameStanding_submitRule p)
  | .fetch p bits, h => cases h; exact hframe (sameStanding_fetchRule p)
  | .cancel p bits, h => cases h; exact hframe (sameStanding_cancelRule p)
  | .events p bits, h => cases h; exact hframe (sameStanding_eventsRule p)
  | .ackEvents p bits, h => cases h; exact hframe fun f u => by simp [ackEventsRule]
  | .setMask p bits, h => cases h; exact hframe fun f u => by simp [setMaskRule]
  | .changes p bits, h => cases h; exact hframe (sameStanding_changesRule p)
  | .watch p bits, h => cases h; exact hframe (sameStanding_watchRule p)
  | .unwatch p bits, h => cases h; exact hframe (sameStanding_unwatchRule p)
  | .renew p bits, h => cases h; exact hframe (sameStanding_renewRule p)
  | .dirRead p bits, h => cases h; exact hframe fun f u => by simp [dirReadRule]
  | .dirWrite p bits, h => cases h; exact hframe (sameStanding_dirWriteRule p)
  | .dirClear p bits, h => cases h; exact hframe (sameStanding_dirClearRule p)
  | .seal p bits, h => cases h; exact hframe (sameStanding_sealRule p)
  | .hold p bits, h =>
    cases h
    exact hports fun f ha => someoneCanRelease_holdRule (hclose p)
      (by simpa [State.closeFrame] using ha (by simp) (by simp)) f
  | .release p bits, h => cases h; exact hports fun f _ => someoneCanRelease_releaseRule (hclose p) p f
  | .restart p bits, h => cases h; exact hports fun f _ => someoneCanRelease_restartRule (hclose p) p f
  | .fenceHead p, h => exact (sameStanding_execFenceHead h).someoneCanRelease hs
  | .pollParking p, h => exact (sameStanding_execPollParking h).someoneCanRelease hs
  | .lockHead p, h => exact (sameStanding_execLockHead h).someoneCanRelease hs
  | .unlockHead p, h => exact (sameStanding_execUnlockHead h).someoneCanRelease hs
  | .breakHead p, h => exact (sameStanding_execBreakHead h).someoneCanRelease hs
  | .endWithoutBus p, h => exact (sameStanding_execEndWithoutBus h).someoneCanRelease hs
  | .grant bus, h => exact (sameStanding_execGrant h).someoneCanRelease hs
  | .transactionComplete bus, h | .pollIterationComplete bus, h | .loaderReadComplete bus, h =>
    cases h
    exact State.someoneCanRelease_afterReading hs bus _ fun x u hu =>
      State.someoneCanRelease_endTransaction hu x.1 x.2 false
  | .recoveryComplete bus, h =>
    cases h
    exact State.someoneCanRelease_afterReading hs bus _ fun x u hu =>
      State.someoneCanRelease_recoveryEnds hu x.1 x.2
  | .leaseExpiry e, h => exact (sameStanding_execLeaseExpiry h).someoneCanRelease hs
  | .deferralExpiry p, h => exact (sameStanding_execDeferralExpiry h).someoneCanRelease hs
  | .blockExpiry k, h => exact (sameStanding_execBlockExpiry h).someoneCanRelease hs
  | .pollDue k, h => exact (sameStanding_execPollDue h).someoneCanRelease hs
  | .stretchLimit bus, h =>
    cases h
    split
    · exact State.someoneCanRelease_stretchLimit hs
    · exact hs
  | .retry bus, h =>
    cases h
    split <;> exact hs

/-- Settles O60: every port's standing stays, but for the target of a HOLD or RELEASE, whose sender can release, and for a
restart or the end of a load, which leave a level-0 port ACTIVE. -/
theorem stepKeepsSomeoneCanRelease : Obligations.StepKeepsSomeoneCanRelease := by
  intro s t hs h
  unfold step at h
  split at h
  next => cases h; exact hs
  next c rest _ =>
    have hu : ({ s with pending := rest } : State).someoneCanRelease := hs
    generalize ({ s with pending := rest } : State) = u at h hu
    exact State.someoneCanRelease_exec hu h

end Sys2Proof.Machine

/-! SUPPORT. The frame end of any command, and the statements about frames that are refused, not judged, or answered with a
result code alone. -/

namespace Sys2Proof.Machine

/-! ### The frame end of any command -/

/-- A command's own rule, for a frame that passes the port-level handling. -/
def Command.rule (c : Command) (p : Port) : FrameEnd → State → State :=
  match c with
  | .status => statusRule p | .submit => submitRule p | .fetch => fetchRule p | .cancel => cancelRule p
  | .events => eventsRule p | .ackEvents => ackEventsRule p | .setMask => setMaskRule p | .changes => changesRule p
  | .watch => watchRule p | .unwatch => unwatchRule p | .renew => renewRule p | .dirRead => dirReadRule p
  | .dirWrite => dirWriteRule p | .dirClear => dirClearRule p | .seal => sealRule p | .hold => holdRule p
  | .release => releaseRule p | .restart => restartRule p

/-- Every frame-end command is a frame end with its command's own rule. -/
theorem exec_frameEndOf (c : Command) (p : Port) (bits : List Bool) (s : State) :
    exec (frameEndOf c p bits) s = .next (s.frameEnd p c bits (c.rule p)) := by
  cases c <;> rfl

@[simp] theorem State.phase_closeFrame (s : State) (p : Port) : (s.closeFrame p).phase = s.phase := rfl

/-- A port after a frame has been closed. -/
@[simp] theorem State.port_closeFrame (s : State) (p q : Port) : (s.closeFrame p).port q = if q = p then
    { s.port q with frame := .idle, notify := { (s.port q).notify with clearList := .absent } } else s.port q :=
  s.port_modPort p q _

/-- A byte that a command is named by is its code (section 10.7). -/
theorem commandOfByte_eq_some {b : Byte} {c : Command} : commandOfByte b = some c ↔ b = commandCode c := by
  refine ⟨fun h => ?_, fun h => by rw [h, commandOfByte_commandCode]⟩
  unfold commandOfByte at h
  have hc := List.find?_some h
  exact (of_decide_eq_true hc).symm

/-! ### The port-level handling (R129, R130) -/

section
variable {s : State} {p : Port} {c : Command} {bits : List Bool} {f : Frame} {args : List Byte}

/-- A held port refuses all but STATUS and RELEASE. -/
theorem State.frameEnd_held (h : s.frameEnds p bits f (commandCode c) args) (rule : FrameEnd → State → State)
    (hst : (s.port p).state = .held) (hs : c ≠ .status) (hr : c ≠ .release) :
    s.frameEnd p c bits rule = s.setPort p ((s.port p).afterFrame .held) := by
  rw [State.frameEnd_ends h, ← State.setResult_closeFrame]
  simp [State.portLevel, hst, hs, hr]

/-- A port that is not refused as held is refused in LOADING, but for STATUS. -/
theorem State.frameEnd_loading (h : s.frameEnds p bits f (commandCode c) args) (rule : FrameEnd → State → State)
    (hst : (s.port p).state = .active ∨ c = .release) (hp : s.phase = .loading) (hs : c ≠ .status) :
    s.frameEnd p c bits rule = s.setPort p ((s.port p).afterFrame .notReady) := by
  rw [State.frameEnd_ends h, ← State.setResult_closeFrame]
  rcases hst with hst | rfl <;> simp_all [State.portLevel]

/-- After these a frame with too few argument bytes is refused. -/
theorem State.frameEnd_short (h : s.frameEnds p bits f (commandCode c) args) (rule : FrameEnd → State → State)
    (hst : (s.port p).state = .active ∨ c = .release) (hp : s.phase ≠ .loading) (hn : args.length < argsNeeded c) :
    s.frameEnd p c bits rule = s.setPort p ((s.port p).afterFrame .shortFrame) := by
  rw [State.frameEnd_ends h, ← State.setResult_closeFrame]
  rcases hst with hst | rfl <;> simp_all [State.portLevel]

end

/-- The argument bytes that a command needs in the port-level handling, read backwards (R130). -/
theorem lt_argsNeeded {c : Command} {n : Nat}
    (h : c ∈ ([.cancel, .watch, .unwatch, .renew, .dirRead, .dirClear, .hold, .release] : List Command) ∧ n < 1
      ∨ c ∈ ([.setMask, .ackEvents] : List Command) ∧ n < 2 ∨ c = .submit ∧ n < 8) : n < argsNeeded c := by
  rcases h with ⟨hc, hn⟩ | ⟨hc, hn⟩ | ⟨rfl, hn⟩
  · simp only [List.mem_cons, List.not_mem_nil, or_false] at hc
    rcases hc with rfl | rfl | rfl | rfl | rfl | rfl | rfl | rfl <;> exact hn
  · simp only [List.mem_cons, List.not_mem_nil, or_false] at hc
    rcases hc with rfl | rfl <;> exact hn
  · exact hn

/-- Settles O11: each clause is one branch of the port-level handling, which every command's frame end goes through. -/
theorem portLevelHandlingRefuses : Obligations.PortLevelHandlingRefuses := by
  refine ⟨rfl, fun s c p bits f args h => ?_⟩
  rw [exec_frameEndOf]
  exact ⟨fun hst hs hr => congrArg _ (State.frameEnd_held h _ hst hs hr),
    fun hst hp hs => congrArg _ (State.frameEnd_loading h _ hst hp hs),
    fun hst hp hn => congrArg _ (State.frameEnd_short h _ hst hp (lt_argsNeeded hn))⟩

/-! ### The refusals by phase and level (R131) -/

/-- The commands that CONFIG refuses. -/
theorem Command.rule_inConfig {c : Command}
    (hc : c ∈ ([.submit, .cancel, .fetch, .changes, .watch, .renew] : List Command)) {s : State}
    (h : s.phase = .config) (p : Port) (f : FrameEnd) : c.rule p f s = s.setResult p .wrongPhase := by
  simp only [List.mem_cons, List.not_mem_nil, or_false] at hc
  rcases hc with rfl | rfl | rfl | rfl | rfl | rfl <;> exact if_pos h

/-- The commands that RUN refuses. -/
theorem Command.rule_inRun {c : Command} (hc : c ∈ ([.dirWrite, .dirClear, .seal] : List Command)) {s : State}
    (h : s.phase = .run) (p : Port) (f : FrameEnd) : c.rule p f s = s.setResult p .wrongPhase := by
  simp only [List.mem_cons, List.not_mem_nil, or_false] at hc
  rcases hc with rfl | rfl | rfl <;> exact if_pos h

/-- The same commands, outside RUN, are for level 0 alone. -/
theorem Command.rule_aboveLevel0 {c : Command} (hc : c ∈ ([.dirWrite, .dirClear, .seal] : List Command)) {s : State}
    {p : Port} (h : s.phase ≠ .run) (hl : (s.port p).level ≠ 0) (f : FrameEnd) :
    c.rule p f s = s.setResult p .notPermitted := by
  simp only [List.mem_cons, List.not_mem_nil, or_false] at hc
  rcases hc with rfl | rfl | rfl <;> exact (if_neg h).trans (if_pos hl)

/-- Settles O12: the first checks of the commands' own rules. -/
theorem phaseAndPrivilegeRefuse : Obligations.PhaseAndPrivilegeRefuse := by
  intro s c p bits f args h
  rw [exec_frameEndOf, State.frameEnd_judged h]
  simp only [← State.setResult_closeFrame]
  exact ⟨fun hp hc => congrArg _ (Command.rule_inConfig (s := s.closeFrame p) hc hp p _),
    fun hp hc => congrArg _ (Command.rule_inRun (s := s.closeFrame p) hc hp p _),
    fun hp hl hc => congrArg _ (Command.rule_aboveLevel0 hc (by simp [hp]) (by simpa using hl) _)⟩

/-! ### Frames without a command, and frames that are not judged -/

/-- With no frame in progress there is none to end. -/
theorem State.frameAt_eq_none {s : State} {p : Port} (h : ∀ f, (s.port p).frame ≠ .opened f) (bits : List Bool) :
    s.frameAt p bits = none := by
  unfold State.frameAt
  split
  · rfl
  · cases hf : (s.port p).frame with
    | opened f => exact absurd hf (h f)
    | idle | discarded | ignored => rfl

/-- With no frame in progress every frame-end command stands for a rise of select that is not judged (R144, log 12). -/
theorem exec_unjudged {s : State} {p : Port} {bits : List Bool} (h : ∀ f, (s.port p).frame ≠ .opened f) {i : Instr}
    (hi : i = .ignoredFrame p bits ∨ i = .unknownCommand p bits ∨ ∃ c, i = frameEndOf c p bits) :
    exec i s = .next (s.unjudgedEnd p) := by
  have hnone := State.frameAt_eq_none h bits
  rcases hi with rfl | rfl | ⟨c, rfl⟩
  · show execIgnoredFrame p bits s = _
    unfold execIgnoredFrame
    cases hf : (s.port p).frame with
    | opened f => exact absurd hf (h f)
    | idle | discarded | ignored => rfl
  · show execUnknownCommand p bits s = _
    unfold execUnknownCommand
    rw [hnone]
  · rw [exec_frameEndOf]
    unfold State.frameEnd
    rw [hnone]

/-- IGNORED_FRAME closes a frame with no whole byte (R128). -/
theorem exec_ignoredFrame {s : State} {p : Port} {bits : List Bool} {f : Frame} (hf : (s.port p).frame = .opened f)
    (hl : f.lastResult = none) (hn : (f.bitsIn ++ bits).length < 8) :
    exec (.ignoredFrame p bits) s = .next (s.setPort p { s.port p with frame := .idle }) := by
  show execIgnoredFrame p bits s = _
  unfold execIgnoredFrame
  rw [hf]
  simp only [hl, wholeBytes_short hn, and_self, if_true]
  rfl

/-- UNKNOWN_COMMAND answers BAD_COMMAND to a byte 0 that names no command (R129). -/
theorem exec_unknownCommand {s : State} {p : Port} {bits : List Bool} {f : Frame} {b0 : Byte} {args : List Byte}
    (h : s.frameEnds p bits f b0 args) (hb : commandOfByte b0 = none) :
    exec (.unknownCommand p bits) s = .next (s.setPort p ((s.port p).afterFrame .badCommand)) := by
  show execUnknownCommand p bits s = _
  unfold execUnknownCommand
  rw [State.frameAt_ends h]
  simp only [hb, if_true, State.setResult_closeFrame]

/-- Settles O10: frames without a command byte or a command, and frame ends without a frame in progress. -/
theorem framesWithoutCommand : Obligations.FramesWithoutCommand := by
  intro s p bits f
  refine ⟨exec_ignoredFrame, fun hf i hi => ?discarded, fun hf i hi => ?idle, fun b0 args h hb => ?unknown⟩
  case discarded =>
    rw [exec_unjudged (by simp [hf]) hi, State.unjudgedEnd, if_pos (.inl hf)]
    rfl
  case idle => rw [exec_unjudged (by simp [hf]) hi, State.unjudgedEnd, if_neg (by simp [hf])]
  case unknown =>
    refine exec_unknownCommand h (Option.eq_none_iff_forall_ne_some.mpr fun c hc => hb ?_)
    rw [commandOfByte_eq_some.mp hc]
    cases c <;> decide

/-! ### STATUS and DIR_READ -/

/-- STATUS passes the port-level handling on every port that takes a frame (R129, R130, R134). -/
theorem exec_status {s : State} {p : Port} {bits : List Bool} {f : Frame} {args : List Byte}
    (h : s.frameEnds p bits f (commandCode .status) args) :
    exec (.status p bits) s = .next (s.setPort p ((s.port p).afterFrame .done)) := by
  show Host.Outcome.next (s.frameEnd p .status bits (statusRule p)) = _
  rw [State.frameEnd_ends h, ← State.setResult_closeFrame]
  simp [State.portLevel, argsNeeded, statusRule]

/-- Settles O13: both commands' own rules store a result code and do nothing else. -/
theorem statusAndDirReadEnd : Obligations.StatusAndDirReadEnd := by
  intro s p bits f args
  refine ⟨exec_status, ?_⟩
  rintro n more rfl h
  have hentry : (entryOfByte n).isSome = decide (n.toNat < 32) := by
    unfold entryOfByte
    split <;> simp_all
  show Host.Outcome.next (s.frameEnd p .dirRead bits (dirReadRule p)) = _
  rw [State.frameEnd_judged h, ← State.setResult_closeFrame]
  simp [dirReadRule, FrameEnd.arg, hentry]

/-! ### HOLD and RELEASE, as far as they hold and release no port -/

/-- Closing a frame leaves every port's state. -/
theorem State.state_closeFrame (s : State) (p q : Port) : ((s.closeFrame p).port q).state = (s.port q).state := by
  rw [State.port_closeFrame]
  split <;> rfl

/-- Closing a frame leaves every port's level. -/
theorem State.level_closeFrame (s : State) (p q : Port) : ((s.closeFrame p).port q).level = (s.port q).level := by
  rw [State.port_closeFrame]
  split <;> rfl

/-- A HOLD frame that passes the port-level handling. -/
theorem exec_hold {s : State} {p : Port} {bits : List Bool} {f : Frame} {args : List Byte}
    (h : s.frameJudged p bits f .hold args) :
    exec (.hold p bits) s = .next (holdRule p
      { response := f.response, heldSince := f.heldSince, clearList := (s.port p).notify.clearList, args := args }
      (s.closeFrame p)) :=
  congrArg Host.Outcome.next (State.frameEnd_judged h (holdRule p))

/-- The checks of HOLD's own rule, in order, once the argument byte names a port (R136). -/
theorem exec_hold_target {s : State} {p t : Port} {bits : List Bool} {f : Frame} {n : Byte} {more : List Byte}
    (h : s.frameJudged p bits f .hold (n :: more)) (ht : n.toNat = t.val) :
    exec (.hold p bits) s = .next (
      if (s.port t).state = .offline then s.setPort p ((s.port p).afterFrame .badPort)
      else if t ≠ p ∧ (s.port p).level ≠ 0 then s.setPort p ((s.port p).afterFrame .notPermitted)
      else if (s.port t).state = .held then s.setPort p ((s.port p).afterFrame .done)
      else (s.setPort p ((s.port p).afterFrame .done)).holdPort t (if t = p then .self else .port p)) := by
  have hport : portOfByte n = some t := portOfByte_eq_some.mpr ht
  rw [exec_hold h]
  simp only [holdRule, FrameEnd.arg, List.getD_cons_zero, hport, State.state_closeFrame, State.level_closeFrame,
    State.setResult_closeFrame]

/-- Settles O27: the checks of HOLD's own rule in order. -/
theorem holdJudgedInOrder : Obligations.HoldJudgedInOrder := by
  intro s p bits f n more h
  refine ⟨fun hn => ?_, fun t ht => ?_⟩
  · have hport : portOfByte n = none := portOfByte_eq_none.mpr hn
    rw [exec_hold h]
    simp [holdRule, FrameEnd.arg, hport, State.setResult_closeFrame]
  · rw [exec_hold_target h ht]
    refine ⟨fun hoff => by rw [if_pos hoff], fun hoff htp hl => ?_, fun hheld hl => ?_⟩
    · rw [if_neg hoff, if_pos ⟨htp, hl⟩]
    · rw [if_neg (by simp [hheld]), if_neg fun ⟨_, h⟩ => h hl, if_pos hheld]

/-- Who passes RELEASE's permission step (R140). -/
theorem PortUnit.mayRelease_iff {u : PortUnit} {p t : Port} : u.mayRelease p t = true ↔
    (u.state = .active ∧ (u.level = 0 ∨ t = p)) ∨ (t = p ∧ u.state = .held ∧ u.origin = some .self) := by
  simp [PortUnit.mayRelease, and_assoc]

/-- The permission does not hang on the frame. -/
theorem State.mayRelease_closeFrame (s : State) (p t : Port) :
    ((s.closeFrame p).port p).mayRelease p t = (s.port p).mayRelease p t := by
  rw [State.port_closeFrame, if_pos rfl]
  rfl

/-- A RELEASE frame outside LOADING is judged by its own rule on an ACTIVE and on a HELD port (R129, R140). -/
theorem exec_release {s : State} {p : Port} {bits : List Bool} {f : Frame} {n : Byte} {more : List Byte}
    (h : s.frameEnds p bits f (commandCode .release) (n :: more)) (hp : s.phase ≠ .loading) :
    exec (.release p bits) s = .next (releaseRule p
      { response := f.response, heldSince := f.heldSince, clearList := (s.port p).notify.clearList, args := n :: more }
      (s.closeFrame p)) := by
  show Host.Outcome.next (s.frameEnd p .release bits (releaseRule p)) = _
  rw [State.frameEnd_ends h]
  simp [State.portLevel, hp, argsNeeded]

/-- The checks of RELEASE's own rule, in order, once the argument byte names a port (R140). -/
theorem exec_release_target {s : State} {p t : Port} {bits : List Bool} {f : Frame} {n : Byte} {more : List Byte}
    (h : s.frameEnds p bits f (commandCode .release) (n :: more)) (hp : s.phase ≠ .loading) (ht : n.toNat = t.val) :
    exec (.release p bits) s = .next (
      if (s.port t).state = .offline then s.setPort p ((s.port p).afterFrame .badPort)
      else if (s.port p).mayRelease p t = false then s.setPort p ((s.port p).afterFrame .notPermitted)
      else if (s.port t).state = .active then s.setPort p ((s.port p).afterFrame .done)
      else (s.setPort p ((s.port p).afterFrame .done)).releasePort t) := by
  have hport : portOfByte n = some t := portOfByte_eq_some.mpr ht
  rw [exec_release h hp]
  simp only [releaseRule, FrameEnd.arg, List.getD_cons_zero, hport, State.state_closeFrame,
    State.mayRelease_closeFrame, State.setResult_closeFrame]

/-- A port after a RELEASE has been carried out (R141). -/
theorem State.port_releasePort (s : State) (t q : Port) : (s.releasePort t).port q =
    if q = t then { s.port t with state := .active, origin := none, lastResult := .noCode }
    else (s.port q).raise .peer := by
  by_cases h : q = t
  · subst h; simp [State.releasePort, State.raisePeer]
  · simp [State.releasePort, State.raisePeer, h]

/-- Settles O29: the checks of RELEASE's own rule in order, and the ports of the released state. -/
theorem releaseFreesTarget : Obligations.ReleaseFreesTarget := by
  intro s p bits f n more mayRelease h hp hmay
  have hmay' (t : Port) : (s.port p).mayRelease p t = true ↔ mayRelease t :=
    PortUnit.mayRelease_iff.trans (hmay t).symm
  refine ⟨fun hn => ?_, fun t ht => ?_⟩
  · have hport : portOfByte n = none := portOfByte_eq_none.mpr hn
    rw [exec_release h hp]
    simp [releaseRule, FrameEnd.arg, hport, State.setResult_closeFrame]
  · rw [exec_release_target h hp ht]
    refine ⟨fun hoff => by rw [if_pos hoff], fun hoff hnot => ?_, fun hact hyes => ?_, fun hheld hyes => ?_⟩
    · rw [if_neg hoff, if_pos (Bool.not_eq_true _ ▸ mt (hmay' t).mp hnot)]
    · rw [if_neg (by simp [hact]), if_neg (by simp [(hmay' t).mpr hyes]), if_pos hact]
    · rw [if_neg (by simp [hheld]), if_neg (by simp [(hmay' t).mpr hyes]), if_neg (by simp [hheld])]
      refine ⟨_, rfl, ?_, fun q hq => ?_, rfl⟩
      · rw [State.port_releasePort, if_pos rfl, State.port_setPort]
      · rw [State.port_releasePort, if_neg hq, State.port_setPort]

end Sys2Proof.Machine

/-! SUPPORT. What a port captures at the fall of select and at the end of byte 0, and what it shifts out, with the
statements about them. -/

namespace Sys2Proof.Machine

/-! ### Bits of bytes -/

/-- The bits of a byte with one bit, or none, set. -/
@[simp] theorem getLsbD_bitAt (b : Bool) {i : Nat} (hi : i < 8) (j : Nat) :
    (bitAt b i).getLsbD j = (b && decide (j = i)) := by
  cases b
  · simp [bitAt]
  · by_cases h : j = i
    · subst h; simp [bitAt, hi]
    · simp [bitAt, h, Ne.symm h]

/-- Two sets of bits meet exactly when they have a common member. -/
theorem and_ne_zero_iff {w : Nat} {a b : BitVec w} :
    (a &&& b) ≠ 0#w ↔ ∃ i : Fin w, hasBit a i = true ∧ hasBit b i = true := by
  constructor
  · intro h
    by_contra hne
    refine h (BitVec.eq_of_getLsbD_eq fun i hi => ?_)
    rw [BitVec.getLsbD_and, BitVec.getLsbD_zero, Bool.and_eq_false_iff, ← Bool.not_eq_true, ← Bool.not_eq_true]
    exact not_and_or.mp fun h => hne ⟨⟨i, hi⟩, h⟩
  · rintro ⟨i, ha, hb⟩ h
    have hi : (a &&& b).getLsbD i.val = true := by
      rw [BitVec.getLsbD_and, Bool.and_eq_true]
      exact ⟨ha, hb⟩
    rw [h, BitVec.getLsbD_zero] at hi
    cases hi

/-- An event is pending exactly when some flag that is shown is enabled by the mask (R148). -/
theorem PortUnit.eventPending_iff {u : PortUnit} :
    u.eventPending = true ↔ ∃ i : Fin 10, hasBit u.shownFlags i = true ∧ hasBit u.notify.mask i = true := by
  rw [← and_ne_zero_iff]
  simp [PortUnit.eventPending]

/-! ### FRAME_OPEN (R126) -/

/-- FRAME_OPEN opens a frame on a port that takes one and has none. -/
theorem exec_frameOpen {s : State} {p : Port} (ho : (s.port p).state ≠ .offline)
    (hf : ∀ f, (s.port p).frame ≠ .opened f) : exec (.frameOpen p) s
      = .next (s.setPort p { s.port p with frame := .opened (Frame.fresh (s.frameStatus p)) }) := by
  show execFrameOpen p s = _
  unfold execFrameOpen
  rw [if_neg ho]
  cases h : (s.port p).frame with
  | opened f => exact absurd h (hf f)
  | idle | discarded | ignored => rfl

/-- FRAME_OPEN on an OFFLINE port opens no frame (R144). -/
theorem exec_frameOpen_offline {s : State} {p : Port} (ho : (s.port p).state = .offline) :
    exec (.frameOpen p) s = .next (s.setPort p { s.port p with frame := .ignored }) :=
  congrArg Host.Outcome.next (if_pos ho)

/-- A status byte's two low bits tell the phase, whatever the bits above them (section 10.2). -/
theorem low_statusBits (ph : Phase) {b : Byte} (h : ∀ j < 2, b.getLsbD j = (phaseCode ph).getLsbD j) :
    (ph = .loading → b.extractLsb' 0 2 = 0#2) ∧ (ph = .config → b.extractLsb' 0 2 = 1#2)
      ∧ (ph = .run → b.extractLsb' 0 2 = 2#2) := by
  have hlow : b.extractLsb' 0 2 = (phaseCode ph).extractLsb' 0 2 := by
    refine BitVec.eq_of_getLsbD_eq fun j hj => ?_
    simp [hj, h j hj]
  rw [hlow]
  cases ph <;> simp [phaseCode]

/-- Above its two low bits a phase code has none. -/
theorem getLsbD_phaseCode (ph : Phase) {j : Nat} (hj : 2 ≤ j) : (phaseCode ph).getLsbD j = false := by
  have hcode : (phaseCode ph).toNat < 2 ^ 2 := by cases ph <;> decide
  exact Nat.testBit_lt_two_pow (hcode.trans_le (Nat.pow_le_pow_right (by decide) hj))

/-- Settles O7: the two captures of FRAME_OPEN, and the frame status byte bit by bit. -/
theorem frameOpenCapturesStatus : Obligations.FrameOpenCapturesStatus := by
  intro s p
  refine ⟨exec_frameOpen_offline, fun ho hf => ⟨s.frameStatus p, exec_frameOpen ho hf, ?_⟩⟩
  have hbit (j : Nat) : (s.frameStatus p).getLsbD j =
      (s.engine.fault && decide (j = 6) || decide ((s.port p).requests.length = 8) && decide (j = 5)
        || !(s.port p).completions.isEmpty && decide (j = 4) || (s.port p).eventPending && decide (j = 3)
        || decide ((s.port p).state = .held) && decide (j = 2) || (phaseCode s.phase).getLsbD j) := by
    simp [State.frameStatus]
  have hhigh {j : Nat} (hj : 2 ≤ j) := getLsbD_phaseCode s.phase hj
  refine ⟨?_, ?_, ?_, ?_, ?_, ?_, low_statusBits s.phase fun j hj => ?_⟩
  case refine_7 =>
    have hlow : j ≠ 6 ∧ j ≠ 5 ∧ j ≠ 4 ∧ j ≠ 3 ∧ j ≠ 2 := by omega
    simp [hbit, hlow]
  all_goals rw [hbit, hhigh (by decide)]
  · simp
  · simp
  · simp
  · simp
  · simp [PortUnit.eventPending_iff]
  · simp

/-! ### RESPONSE_SNAPSHOT (R127) -/

/-- RESPONSE_SNAPSHOT in a frame whose byte 0 was not complete. -/
theorem exec_responseSnapshot {s : State} {p : Port} {f : Frame} (ho : (s.port p).state ≠ .offline)
    (hf : (s.port p).frame = .opened f) (hl : f.lastResult = none) (b0 : Byte) :
    exec (.responseSnapshot p b0) s = .next (s.snapshot p f b0) := by
  show execResponseSnapshot p b0 s = _
  unfold execResponseSnapshot
  rw [if_neg ho, hf]
  simp only [hl, if_true]

/-- A command with no response of its own. -/
theorem State.responseFor_none {s : State} {p : Port} {c : Option Command}
    (h : ∀ d ∈ ([.status, .fetch, .dirRead, .events, .changes] : List Command), c ≠ some d) :
    s.responseFor p c = .absent := by
  cases c with
  | none => rfl
  | some d =>
    cases d with
    | status | fetch | dirRead | events | changes => simp at h
    | _ => rfl

/-- On a HELD port or in LOADING only STATUS has a response. -/
theorem State.responseFor_refused {s : State} {p : Port} {c : Option Command} (hc : c ≠ some .status)
    (h : (s.port p).state = .held ∨ s.phase = .loading) : s.responseFor p c = .absent := by
  have hnot : ¬ ((s.port p).state = .active ∧ s.phase ≠ .loading) := fun ⟨ha, hp⟩ =>
    h.elim (fun h => by simp [h] at ha) hp
  cases c with
  | none => rfl
  | some d =>
    cases d with
    | status => exact absurd rfl hc
    | fetch | dirRead | events | changes => exact if_neg hnot
    | _ => rfl

/-- A response of flags is that of EVENTS, one of the Changed Set that of CHANGES. -/
theorem State.responseFor_clears {s : State} {p : Port} {c : Option Command} (he : c ≠ some .events)
    (hc : c ≠ some .changes) (m : ClearMode) (old : ClearList) : clearListFor m (s.responseFor p c) old = old := by
  cases c with
  | none => rfl
  | some d =>
    cases d with
    | events => exact absurd rfl he
    | changes => exact absurd rfl hc
    | fetch | dirRead =>
      simp only [State.responseFor]
      split <;> rfl
    | _ => rfl

/-- Settles O8: the response goes by the command that byte 0 names, and the clear list by the response. -/
theorem snapshotCapturesResponse : Obligations.SnapshotCapturesResponse := by
  intro s p b0 f ho hf hl
  have hne {c : Command} (h : b0 ≠ commandCode c) : commandOfByte b0 ≠ some c := mt commandOfByte_eq_some.mp h
  refine ⟨_, _, exec_responseSnapshot ho hf hl b0, ?status, fun ha hp => ?own, fun hb => ?none, fun hb h => ?refused,
    fun w hr hm => ?readClears, fun w hr hm => ?ackClears, fun w hr => ?changes, fun hr => ?absent, fun he hc => ?others⟩
  case status => rintro rfl; rfl
  case own =>
    refine ⟨?_, ?_, ?_, ?_⟩ <;> rintro rfl <;> exact if_pos ⟨ha, hp⟩
  case none =>
    simp only [List.mem_cons, List.not_mem_nil, or_false, not_or] at hb
    obtain ⟨hs, hft, hd, hev, hch⟩ := hb
    refine State.responseFor_none fun d hd' => ?_
    simp only [List.mem_cons, List.not_mem_nil, or_false] at hd'
    rcases hd' with rfl | rfl | rfl | rfl | rfl <;> exact hne ‹_›
  case refused => exact State.responseFor_refused (hne hb) h
  case readClears => rw [hr, hm]; rfl
  case ackClears => rw [hr, hm]; rfl
  case changes => rw [hr]; rfl
  case absent => rw [hr]; rfl
  case others => exact State.responseFor_clears (hne he) (hne hc) _ _

end Sys2Proof.Machine

/-! SUPPORT. The bits and bytes that a port shifts out, and the statement about them. -/

namespace Sys2Proof.Machine

/-! ### Data-out (R125, R144) -/

/-- In a frame in progress the frame's bytes are shifted out. -/
theorem State.dataOut_opened {s : State} {p : Port} {f : Frame} (ho : (s.port p).state ≠ .offline)
    (hf : (s.port p).frame = .opened f) (byte1 : Byte) (n : Nat) :
    s.dataOut p byte1 n = some (f.byteOut byte1 n) := by
  simp only [State.dataOut, if_neg ho, hf]

/-- An OFFLINE port drives nothing. -/
theorem State.dataOut_offline {s : State} {p : Port} (ho : (s.port p).state = .offline) (byte1 : Byte) (n : Nat) :
    s.dataOut p byte1 n = none := if_pos ho

/-- With select high nothing is driven. -/
theorem State.dataOut_idle {s : State} {p : Port} (hf : (s.port p).frame = .idle) (byte1 : Byte) (n : Nat) :
    s.dataOut p byte1 n = none := by
  simp only [State.dataOut, hf, ite_self]

/-- The rest of a discarded frame is 0xFF. -/
theorem State.dataOut_discarded {s : State} {p : Port} (ho : (s.port p).state ≠ .offline)
    (hf : (s.port p).frame = .discarded) (byte1 : Byte) (n : Nat) : s.dataOut p byte1 n = some 0xFF := by
  simp only [State.dataOut, if_neg ho, hf]

/-- With select low without a frame something is driven (log 8). -/
theorem State.dataOut_ignored {s : State} {p : Port} (ho : (s.port p).state ≠ .offline)
    (hf : (s.port p).frame = .ignored) (byte1 : Byte) (n : Nat) : (s.dataOut p byte1 n).isSome = true := by
  simp only [State.dataOut, if_neg ho, hf, Option.isSome_some]

/-- From byte 2 on a frame shifts its response out. -/
theorem Frame.byteOut_response (f : Frame) (byte1 : Byte) (k : Nat) :
    f.byteOut byte1 (k + 2) = ((f.response.bytes byte1)[k]?).getD 0xFF := rfl

/-! ### Numbers in bytes (R172) -/

/-- A 16-bit word's high and low bytes. -/
theorem bytes_of_word (w : BitVec 16) :
    w.extractLsb' 8 8 = BitVec.ofNat 8 (w.toNat / 256) ∧ w.setWidth 8 = BitVec.ofNat 8 w.toNat := by
  constructor <;> apply BitVec.eq_of_toNat_eq <;> simp [Nat.shiftRight_eq_div_pow]

/-- Two sets of ports in one byte, the first in the high half. -/
theorem byte_of_portSets (hi lo : PortSet) : hi ++ lo = BitVec.ofNat 8 (16 * hi.toNat + lo.toNat) := by
  revert hi lo
  decide

/-- A window in an entry record, in numbers (section 10.5). -/
theorem Window.bytes_eq (w : Window) : w.bytes =
    [BitVec.ofNat 8 (w.first.toNat / 256), BitVec.ofNat 8 w.first.toNat, BitVec.ofNat 8 (w.last.toNat / 256),
     BitVec.ofNat 8 w.last.toNat, BitVec.ofNat 8 (16 * w.writeSet.toNat + w.readSet.toNat)] := by
  obtain ⟨hf, hf'⟩ := bytes_of_word w.first
  obtain ⟨hl, hl'⟩ := bytes_of_word w.last
  rw [Window.bytes, hf, hf', hl, hl', byte_of_portSets]

/-! ### The responses -/

/-- The flags byte of a completion record (section 10.4). -/
theorem record_flags (lost : Bool) (prev : Option PrevRelease) :
    (bitAt lost 7 ||| previousCode prev).getLsbD 7 = lost
      ∧ (bitAt lost 7 ||| previousCode prev).extractLsb' 3 4 = 0#4
      ∧ (bitAt lost 7 ||| previousCode prev).extractLsb' 0 3 = match prev with
        | none => 0#3 | some .initial => 1#3 | some .normal => 2#3 | some .expired => 3#3 | some .broken => 4#3
        | some .reset => 5#3 | some .alreadyOwned => 6#3 := by
  cases prev with
  | none => revert lost; decide
  | some v => cases v <;> revert lost <;> decide

/-- A slot number past the last, or an empty slot, is presented as an empty record (R21). -/
theorem dirReadBytes_empty {slots : Vector (Option Entry) 32} {n : Byte}
    (h : 32 ≤ n.toNat ∨ ∃ e : EntryNo, n.toNat = e.val ∧ slots[e] = none) :
    dirReadBytes slots n = [0x00, n, 0x00, 0x00, 0x00, 0x00, 0xFF, 0x00, 0xFF, 0x00, 0x00, 0x00] := by
  have hnone : (entryOfByte n).bind (fun e => slots[e]) = none := by
    rcases h with h | ⟨e, he, hx⟩
    · rw [entryOfByte_eq_none.mpr h, Option.bind_none]
    · rw [entryOfByte_eq_some.mpr he, Option.bind_some, hx]
  simp only [dirReadBytes, hnone]

/-- An occupied slot is presented as its record with the extension (R21). -/
theorem dirReadBytes_occupied {slots : Vector (Option Entry) 32} {n : Byte} {e : EntryNo} {x : Entry}
    (he : n.toNat = e.val) (hx : slots[e] = some x) :
    dirReadBytes slots n = x.recordBytes n ++ x.extensionBytes := by
  have hsome : (entryOfByte n).bind (fun e => slots[e]) = some x := by
    rw [entryOfByte_eq_some.mpr he, Option.bind_some, hx]
  simp only [dirReadBytes, hsome]

/-- The health code by the consecutive-NACK count (R14, section 10.7). -/
theorem healthCode_health (x : Entry) :
    healthCode x.health = if x.nackCount = 0 then 0x00 else if x.nackCount = 3 then 0x02 else 0x01 := by
  unfold Entry.health
  split
  · rfl
  · split <;> rfl

/-- The event flag word, bit by bit (section 10.6). -/
theorem getLsbD_flagBytes (w : FlagSet) {m j : Nat} (hm : m < 2) (hj : j < 8) :
    ((flagBytes w).getD m 0).getLsbD j = w.getLsbD (8 * m + j) := by
  have hcases : m = 0 ∨ m = 1 := by omega
  rcases hcases with rfl | rfl
  · simp [flagBytes, hj]
  · have htop : w.getLsbD (8 + j) = true → j < 2 := fun h => by have := BitVec.lt_of_getLsbD h; omega
    simpa [flagBytes, hj] using htop

/-- The Changed Set, bit by bit (section 10.6). -/
theorem getLsbD_changedBytes (w : EntrySet) {m j : Nat} (hm : m < 4) (hj : j < 8) :
    ((changedBytes w).getD m 0).getLsbD j = w.getLsbD (8 * m + j) := by
  have hcases : m = 0 ∨ m = 1 ∨ m = 2 ∨ m = 3 := by omega
  rcases hcases with rfl | rfl | rfl | rfl <;> simp [changedBytes, hj]

/-- The first byte of the extended status, bit by bit (section 10.2). -/
theorem extendedStatus_bits (ph : Phase) (held fault : Bool) :
    (phaseCode ph ||| bitAt held 2 ||| bitAt fault 3).getLsbD 3 = fault
      ∧ (phaseCode ph ||| bitAt held 2 ||| bitAt fault 3).getLsbD 2 = held
      ∧ (phaseCode ph ||| bitAt held 2 ||| bitAt fault 3).extractLsb' 4 4 = 0#4 := by
  cases ph <;> revert held fault <;> decide

/-- Settles O9: each line of data-out, each layout and each table of codes. -/
theorem dataOutBytes : Obligations.DataOutBytes := by
  intro s p byte1
  refine ⟨fun ho => State.dataOut_offline ho byte1, fun hf => State.dataOut_idle hf byte1, fun f ho hf => ?frame,
    fun ho hf => State.dataOut_discarded ho hf byte1, fun ho hf => State.dataOut_ignored ho hf byte1, fun k => rfl,
    ⟨rfl, fun _ => rfl, rfl⟩, fun c => ⟨_, rfl, record_flags c.lockLost c.previousRelease⟩,
    fun slots => ⟨dirReadBytes_empty, fun e x he hx => ?slot⟩, fun w => ⟨rfl, fun m hm j hj => getLsbD_flagBytes w hm hj⟩,
    fun w => ⟨rfl, fun m hm j hj => getLsbD_changedBytes w hm hj⟩, rfl, rfl, rfl, rfl, rfl, ?status⟩
  case frame =>
    simp only [State.dataOut_opened ho hf, Frame.byteOut_response]
    refine ⟨rfl, fun r hr => ?_, fun k b hb => ?_, fun k hk => ?_⟩
    · simp [Frame.byteOut, hr]
    · simp [hb]
    · simp [List.getElem?_eq_none hk]
  case slot =>
    refine (dirReadBytes_occupied he hx).trans ?_
    have hwindows : x.windows.flatMap Window.bytes = _ := List.flatMap_congr fun w _ => Window.bytes_eq w
    rw [Entry.recordBytes, Entry.extensionBytes, healthCode_health, hwindows, BitVec.ofNat_toNat, BitVec.ofNat_toNat]
    rfl
  case status =>
    obtain ⟨hfault, hheld, hhigh⟩ := extendedStatus_bits s.phase (decide ((s.port p).state = .held)) s.engine.fault
    refine ⟨phaseCode s.phase ||| bitAt (decide ((s.port p).state = .held)) 2 ||| bitAt s.engine.fault 3, ?_, hfault,
      by rw [hheld, decide_eq_true_iff], hhigh, low_statusBits s.phase fun j hj => ?_⟩
    · rfl
    · have hlow : j ≠ 3 ∧ j ≠ 2 := by omega
      simp [hlow]

end Sys2Proof.Machine

/-! SUPPORT. LOADER_READ_COMPLETE: the next read, the commit, or the end of the load, and the statement about it. -/

namespace Sys2Proof.Machine

/-! ### The loader's report -/

/-- LOADER_READ_COMPLETE with a loader read that has its outcome after the reading: the loader takes the report with the
engine READY, or RECOVERING after BUS_STUCK, and the samples left over go to what follows (R112, R164). -/
theorem exec_loaderReadComplete {s : State} {bus : BusRead} {eng : Engine} {tr : Transaction} {st : BusStatus}
    (hreads : (s.engine.reads bus.samples).1 = eng) (hb : eng.busState = .busy) (hr : eng.recovery = none)
    (ht : eng.transaction = some tr) (hq : tr.requester = .loader) (ho : tr.outcome = some st) :
    exec (.loaderReadComplete bus) s = .next
      (((s.setEngine (if st = .stuck then eng.recover .afterStuck else eng.idle)).loaderReport (tr.report st)).busRuns
        (s.engine.reads bus.samples).2 bus.mckLow) := by
  have hended : eng.ended .loader = some (tr, st) := by simp [Engine.ended, hb, hr, ht, hq, ho]
  show Host.Outcome.next (s.afterReading bus (fun s1 => s1.engine.ended .loader)
    fun x s1 => s1.endTransaction x.1 x.2 false) = _
  simp only [State.afterReading, hreads, State.engine_setEngine, hended, State.endTransaction, hq,
    State.engineAfter_eq, Bool.false_eq_true, if_false, State.setEngine_setEngine]

/-- The loader with more bytes staged and its walk moved on. -/
def State.withStaged (s : State) (staged : List Byte) (walk : Nat) : State :=
  { s with loader := { s.loader with staging := staged, walk := walk } }

/-- A read that ended OK while the walk waits and bytes are left to read: the loader reads on (R164). -/
theorem State.loaderReport_readsOn {s : State} {tr : Transaction} {staged : List Byte}
    (hs : staged = s.loader.staging ++ tr.received)
    (hwaits : (walkFrom staged staged.length s.loader.walk).2.2 = .waits) (hlen : staged.length < 842) (e : Engine) :
    ∃ n, (s.setEngine e).loaderReport (tr.report .ok) = ((s.setEngine e).withStaged staged n).startLoaderRead := by
  subst hs
  exact ⟨_, if_neg (not_or.mpr ⟨not_not_intro hwaits, Nat.not_le.mpr hlen⟩)⟩

/-- A read that ended OK after which the list has been read: the loader finishes (R164). -/
theorem State.loaderReport_finishes {s : State} {tr : Transaction} {staged : List Byte}
    (hs : staged = s.loader.staging ++ tr.received)
    (h : (walkFrom staged staged.length s.loader.walk).2.2 ≠ .waits ∨ 842 ≤ staged.length) (e : Engine) :
    ∃ n, (s.setEngine e).loaderReport (tr.report .ok) = ((s.setEngine e).withStaged staged n).finishLoad := by
  subst hs
  exact ⟨_, if_pos h⟩

/-- Finishing goes by the validation of the staged bytes (R166, R167). -/
theorem State.finishLoad_withStaged (s : State) (staged : List Byte) (n : Nat) :
    (s.withStaged staged n).finishLoad = match validate staged with
      | some f => s.loadFault f
      | none => (s.withStaged staged n).commit := rfl

/-! ### The next read -/

/-- No sample changes the shape of a transaction. -/
theorem Transaction.shape_sample (t : Transaction) (b : Bool) : (t.sample b).shape = t.shape := by
  have hshift : (t.shift b).shape = t.shape := by
    unfold Transaction.shift
    split <;> rfl
  unfold Transaction.sample
  cases t.slots with
  | nil => rfl
  | cons w rest =>
    simp only
    split
    · rfl
    · cases w with
      | ack what => cases what <;> cases b <;> rfl
      | recvBit => exact hshift
      | _ => rfl

/-- Nor does the reading of the wires. -/
theorem State.busRuns_shape {s : State} {t : Transaction} (ht : s.engine.transaction = some t) (l : List Bool)
    (m : Bool) : ∀ t', (s.busRuns l m).engine.transaction = some t' → t'.shape = t.shape := by
  refine State.busRuns_keeps (P := fun e => ∀ t', e.transaction = some t' → t'.shape = t.shape) (fun _ _ h => h)
    (fun e b h => ?_) l m fun t' ht' => by cases ht.symm.trans ht'; rfl
  unfold Engine.sample
  cases e.recovery with
  | some r => exact h
  | none =>
    cases he : e.transaction with
    | none => exact h
    | some t₀ =>
      simp only
      split
      · exact fun t' ht' => h t' (he.trans (by simpa using ht'))
      · rintro t' ⟨⟩
        exact (t₀.shape_sample b).trans (h t₀ he)

/-- The index bytes of a loader read: the number of bytes staged, which is below 842 (R164). -/
theorem indexBytesOf_staged {n : Nat} (h : n < 842) : indexBytesOf .indexed16 (BitVec.ofNat 16 n)
    = [BitVec.ofNat 8 (n / 256), BitVec.ofNat 8 (n % 256)] := by
  have hn : (BitVec.ofNat 16 n).toNat = n := by
    rw [BitVec.toNat_ofNat]
    omega
  have hlow : BitVec.ofNat 8 n = BitVec.ofNat 8 (n % 256) := by
    apply BitVec.eq_of_toNat_eq
    simp
  rw [indexBytesOf_eq]
  simp only [indexOnWire, hn, hlow]

/-- A loader read from the memory at `a` with `n` bytes staged: 16 bytes or those up to 842, at index `n` (R121, R164). -/
def loaderRead (a : BitVec 7) (n : Nat) : Transaction :=
  .fresh .loader .read a [BitVec.ofNat 8 (n / 256), BitVec.ofNat 8 (n % 256)] (min 16 (842 - n)) []

/-- The next read is put on the bus at the index after the bytes staged. -/
theorem State.startLoaderRead_eq {s : State} {a : BitVec 7} (ha : s.loader.memAddress = some a)
    (h : s.loader.staging.length < 842) :
    s.startLoaderRead = s.setEngine (s.engine.start (loaderRead a s.loader.staging.length)) := by
  simp only [State.startLoaderRead, ha, indexBytesOf_staged h, stagingSize, loaderRead]

/-! ### The commit -/

/-- The entry numbers of a valid list rise (R167). -/
theorem numbersAscend_pairwise : ∀ {l : List RawRecord}, numbersAscend l = true →
    l.Pairwise fun r q => r.number.toNat < q.number.toNat
  | [], _ => .nil
  | [r], _ => List.pairwise_singleton _ r
  | r :: q :: rest, h => by
    simp only [numbersAscend, Bool.and_eq_true, decide_eq_true_eq] at h
    obtain ⟨⟨-, hrq⟩, hrest⟩ := h
    have ih := numbersAscend_pairwise hrest
    refine .cons (fun x hx => ?_) ih
    rcases List.mem_cons.mp hx with rfl | hx
    · exact hrq
    · exact hrq.trans (List.rel_of_pairwise_cons ih hx)

/-- So a record is found by its number. -/
theorem find?_number {l : List RawRecord} (hl : l.Pairwise fun r q => r.number.toNat < q.number.toNat) {r : RawRecord}
    (hr : r ∈ l) {n : Nat} (hn : r.number.toNat = n) : (l.find? fun q => q.number.toNat = n) = some r := by
  induction l with
  | nil => cases hr
  | cons x xs ih =>
    obtain ⟨hx, hxs⟩ := List.pairwise_cons.mp hl
    rcases List.mem_cons.mp hr with rfl | hr
    · rw [List.find?_cons_of_pos (by simpa using hn)]
    · have hlt := hx r hr
      rw [List.find?_cons_of_neg (by simp; omega)]
      exact ih hxs hr

/-- The bytes that name an entry type (section 10.7). -/
theorem typeOfByte_eq_some {b : Byte} {t : EntryType} (h : typeOfByte b = some t) : b = typeCode t := by
  unfold typeOfByte at h
  split at h
  · cases h; assumption
  · split at h
    · cases h; assumption
    · split at h
      · cases h; assumption
      · cases h

/-- A valid record fills its slot with its static fields and the slot-filling values (R8, R14, R17). -/
theorem RawRecord.fills_toEntry {r : RawRecord} (h : r.valid = true) : r.fills r.toEntry := by
  simp only [RawRecord.valid, Bool.and_eq_true, decide_eq_true_eq] at h
  obtain ⟨⟨⟨-, haddr⟩, hlevel⟩, htype⟩ := h
  refine ⟨?address, ?type, ?level, rfl, rfl, rfl, rfl, rfl, rfl, rfl⟩
  case address =>
    simp only [RawRecord.toEntry, BitVec.toNat_setWidth]
    omega
  case type =>
    cases ht : typeOfByte r.type with
    | none => simp [ht] at htype
    | some t =>
      simp only [RawRecord.toEntry, ht, Option.getD_some]
      rw [typeOfByte_eq_some ht]
      cases t <;> rfl
  case level =>
    simp only [RawRecord.toEntry, Fin.ofNat]
    omega

@[simp] theorem State.entry_commit (s : State) (e : EntryNo) : s.commit.entry e = listedEntry s.loader.staging e := by
  simp [State.commit, State.entry]

/-- A record of a valid list fills the slot it names (R166). -/
theorem listedEntry_of_mem {staged : List Byte} (h : validate staged = none) {r : RawRecord}
    (hr : r ∈ (walkFrom staged staged.length 8).1) {e : EntryNo} (he : r.number.toNat = e.val) :
    ∃ x, listedEntry staged e = some x ∧ r.fills x := by
  obtain ⟨-, hvalid, hascend⟩ := validate_eq_none h
  refine ⟨r.toEntry, ?_, RawRecord.fills_toEntry (hvalid r hr)⟩
  rw [listedEntry, find?_number (numbersAscend_pairwise hascend) hr he, Option.map_some]

/-- A slot that no record names stays empty. -/
theorem listedEntry_eq_none {staged : List Byte} {e : EntryNo}
    (h : ∀ r ∈ (walkFrom staged staged.length 8).1, r.number.toNat ≠ e.val) : listedEntry staged e = none := by
  rw [listedEntry, Option.map_eq_none_iff, List.find?_eq_none]
  simpa using h

/-- The frame of a port after the commit: a port that becomes OFFLINE has select low without one, unless it is high
(R144, log 8). -/
theorem PortUnit.frame_configured (u : PortUnit) (b : PortByte) :
    (u.configured b).frame = if b.enabled = true ∨ u.frame = .idle then u.frame else .ignored := by
  unfold PortUnit.configured
  cases b.enabled with
  | true => simp
  | false => cases h : u.frame <;> simp [FrameState.goOffline]

/-! ### The statement -/

/-- The state after the commit of `staged`, in what the statement says of each port (R123, R144, R145, R166). -/
theorem PortUnit.configured_eq (u : PortUnit) (b : PortByte) : u.configured b = { u with
    state := if b.enabled = true then .active else .offline, level := b.level, origin := none,
    frame := if b.enabled = true ∨ u.frame = .idle then u.frame else .ignored,
    notify := { u.notify with route := b.route, clearMode := b.clearMode, changed := 0, clearList := .absent } } := by
  rw [← PortUnit.frame_configured]
  rfl

/-- Settles O46: each status of the report picks what the loader does with it. -/
theorem loaderReadCompletes : Obligations.LoaderReadCompletes := by
  intro s bus eng tr st a staged hreads hb hr ht hq ho hp ha hstaged
  have hexec := exec_loaderReadComplete hreads hb hr ht hq ho
  generalize (s.engine.reads bus.samples).2 = rest at hexec
  rw [hexec]
  refine ⟨fun hst hwaits hlen => ?reads, fun hst hends => ?ends, fun hst => ?refused, fun hst => ?stuck⟩
  case reads =>
    subst hst
    obtain ⟨n, hmore⟩ := State.loaderReport_readsOn hstaged hwaits hlen eng.idle
    rw [if_neg (by simp), hmore, State.startLoaderRead_eq (s := (s.setEngine eng.idle).withStaged staged n) ha hlen]
    generalize hstart : ((s.setEngine eng.idle).withStaged staged n).setEngine _ = s1
    have htr : s1.engine.transaction = some (loaderRead a staged.length) := by rw [← hstart]; rfl
    obtain ⟨tr', htr', hq', ha', hi', hn'⟩ := State.busRuns_asked htr rest bus.mckLow
    refine ⟨_, tr', rfl, ?_, ?_, ?_, ?_, htr', hq', ha', State.busRuns_shape htr _ _ _ htr', hn', hi', ?_, ?_⟩
    all_goals subst hstart
    · rfl
    · exact hp
    · rfl
    · rw [State.busState_busRuns]; rfl
    · rfl
    · rfl
  case ends =>
    subst hst
    obtain ⟨n, hfinish⟩ := State.loaderReport_finishes hstaged hends eng.idle
    rw [if_neg (by simp), hfinish, State.finishLoad_withStaged]
    refine ⟨fun fault hf => ?fault, fun hv => ?commit⟩
    case fault =>
      rw [hf]
      exact ⟨_, rfl, s.loadFailed_busRuns fault eng.idle rest bus.mckLow⟩
    case commit =>
      rw [hv]
      generalize hcommit : (s.setEngine eng.idle).withStaged staged n = s1
      have hport (p : Port) : (s1.commit.busRuns rest bus.mckLow).port p
          = (s.port p).configured (decodePortByte (stagedPortByte staged p)) := by
        subst hcommit
        exact State.port_commit _ p
      have hentry (e : EntryNo) : (s1.commit.busRuns rest bus.mckLow).entry e = listedEntry staged e := by
        subst hcommit
        exact State.entry_commit _ e
      refine ⟨_, rfl, ?_, ?_, ?_, ?_, hentry, fun r hr e he => ?_, fun e he => ?_, fun p => ?_, ?_⟩
      · rfl
      · rfl
      · subst hcommit; rfl
      · obtain ⟨-, -, -, hspeed⟩ := State.busRuns_frame s1.commit rest bus.mckLow
        rw [hspeed]
        subst hcommit
        rfl
      · rw [hentry]; exact listedEntry_of_mem hv hr he
      · rw [hentry]; exact listedEntry_eq_none he
      · rw [hport, PortUnit.configured_eq]
        exact ⟨rfl, rfl, rfl, rfl, rfl, rfl, rfl⟩
      · subst hcommit; rfl
  case refused =>
    have hreport : (s.setEngine (if st = .stuck then eng.recover .afterStuck else eng.idle)).loaderReport (tr.report st)
        = (s.setEngine eng.idle).loadFault (if st = .nackAddr ∧ s.loader.staging = [] then .noMemory else .busError) := by
      rcases hst with rfl | rfl
      · simp [State.loaderReport, Transaction.report]
      · simp [State.loaderReport, Transaction.report]
    rw [hreport]
    refine ⟨_, rfl, ?_, s.loadFailed_busRuns _ eng.idle rest bus.mckLow⟩
    rw [State.busState_busRuns, State.engine_loadFault]
    rfl
  case stuck =>
    subst hst
    rw [if_pos rfl, State.loaderReport_waits (by simp [Engine.recover])]
    exact ⟨_, rfl, State.busRuns_recover (e := eng) rfl rest bus.mckLow⟩

end Sys2Proof.Machine

/-! SUPPORT. The release of every lock of a port, one after the other, as one act: each lock passes or becomes free as if
the others were not released (R82, log 10). -/

namespace Sys2Proof.Machine

/-! ### Who a released lock passes to -/

/-- The lock of entry `e`, which port `t` owns, passes when released to the head `r`, before `rest`, of port `q`
(R76, R82). -/
def State.passes (s : State) (t : Port) (e : EntryNo) (q : Port) (r : Request) (rest : List Request) : Prop :=
  ∃ x, s.entry e = some x ∧ x.owner = some t ∧ x.nackCount ≠ 3 ∧ s.heir e q r rest

/-- Where some head waits for a lock there is an heir. -/
theorem State.exists_heir {s : State} {e : EntryNo} {q : Port} {r : Request} {rest : List Request} {d : Nat}
    (h : s.waitsFor e q r rest d) : ∃ q' r' rest', s.heir e q' r' rest' := by
  cases hp : s.pickHeir e with
  | some q' =>
    obtain ⟨r', rest', h'⟩ := State.pickHeir_heir hp
    exact ⟨q', r', rest', h'⟩
  | none =>
    have hnone := s.pickHeir_spec e
    rw [hp] at hnone
    exact absurd h (State.lockWaiter_eq_none.mp (hnone q) r rest d)

/-- The heir of a lock is a port other than its owner. -/
theorem State.passes.ne_owner {s : State} {t : Port} {e : EntryNo} {q : Port} {r : Request} {rest : List Request}
    (h : s.passes t e q r rest) : q ≠ t := by
  obtain ⟨x, hx, ho, -, d, ⟨-, -, -, ⟨x', q', hx', ho', hne⟩, -⟩, -⟩ := h
  cases hx.symm.trans hx'
  cases ho.symm.trans ho'
  exact hne.symm

/-- A port's head waits for one lock alone, that of the entry it names. -/
theorem State.passes.unique {s : State} {t : Port} {e e' : EntryNo} {q : Port} {r r' : Request}
    {rest rest' : List Request} (h : s.passes t e q r rest) (h' : s.passes t e' q r' rest') :
    e = e' ∧ r = r' ∧ rest = rest' := by
  obtain ⟨x, -, -, -, d, ⟨hq, -, he, -⟩, -⟩ := h
  obtain ⟨x', -, -, -, d', ⟨hq', -, he', -⟩, -⟩ := h'
  obtain ⟨rfl, rfl⟩ := List.cons.inj (hq.symm.trans hq')
  exact ⟨Fin.ext (he.symm.trans he'), rfl, rfl⟩

/-- A lock passes to one head alone. -/
theorem State.passes.unique_port {s : State} {t : Port} {e : EntryNo} {q q' : Port} {r r' : Request}
    {rest rest' : List Request} (h : s.passes t e q r rest) (h' : s.passes t e q' r' rest') :
    q = q' ∧ r = r' ∧ rest = rest' := by
  obtain ⟨x, -, -, -, hheir⟩ := id h
  obtain ⟨x', -, -, -, hheir'⟩ := id h'
  obtain rfl : q = q' :=
    Option.some.inj ((State.pickHeir_of_heir hheir).1.symm.trans (State.pickHeir_of_heir hheir').1)
  exact ⟨rfl, (h.unique h').2⟩

/-- Who waits for a lock is seen from its entry and the port's queue, timer, mark and credits. -/
theorem State.waitsFor_congr {s s' : State} {e : EntryNo} {q : Port} (he : s'.entry e = s.entry e)
    (hrequests : (s'.port q).requests = (s.port q).requests) (hdeferral : (s'.port q).deferral = (s.port q).deferral)
    (hmark : (s'.port q).lockedMark = (s.port q).lockedMark)
    (hrecords : (s'.port q).completions = (s.port q).completions) (hcredits : (s'.port q).credits = (s.port q).credits)
    {r : Request} {rest : List Request} {d : Nat} : s'.waitsFor e q r rest d ↔ s.waitsFor e q r rest d := by
  simp only [State.waitsFor, State.lockedAgainst, he, hrequests, hdeferral, hmark, hrecords, hcredits]

/-- With the entry and all who wait for its lock the same, the lock passes the same. -/
theorem State.passes_congr {s s' : State} {t : Port} {e : EntryNo} (he : s'.entry e = s.entry e)
    (hwaits : ∀ x, s.entry e = some x → x.owner = some t → ∀ q r rest d,
      s'.waitsFor e q r rest d ↔ s.waitsFor e q r rest d) {q : Port} {r : Request} {rest : List Request} :
    s'.passes t e q r rest ↔ s.passes t e q r rest := by
  simp only [State.passes, he]
  refine exists_congr fun x => and_congr_right fun hx => and_congr_right fun ho => and_congr_right fun _ => ?_
  simp only [State.heir, hwaits x hx ho]

/-! ### The locks of a port released -/

/-- What becomes of entry `x` of slot `e` when port `t`'s locks are released (R76, R82): another port's lock is left; a
lock that nobody takes ends; a lock that passes is the heir's, with its own lease. -/
structure State.entryReleased (s : State) (t : Port) (e : EntryNo) (x y : Entry) : Prop where
  kept : x.owner ≠ some t → y = x
  freed : x.owner = some t → (∀ q r rest, ¬ s.passes t e q r rest) →
    y = { x with owner := none, leaseRemaining := 0, releaseReason := .reset }
  passed : ∀ q r rest, s.passes t e q r rest → y = { x with
    owner := some q, leaseValue := r.lease.toNat, leaseRemaining := r.lease.toNat * 4, releaseReason := .reset }

/-- Between `s` and `s'` port `t`'s locks on the entries of `l` have been released, with the records `recs`: each entry
and each port as `s` alone decides it. -/
structure State.locksReleased (s : State) (t : Port) (l : List EntryNo) (s' : State)
    (recs : List (Port × Completion)) : Prop where
  frame : s' = { s with ports := s'.ports, directory := s'.directory }
  empty : ∀ e, s.entry e = none → s'.entry e = none
  others : ∀ e, e ∉ l → s'.entry e = s.entry e
  entries : ∀ e ∈ l, ∀ x, s.entry e = some x → ∃ y, s'.entry e = some y ∧ s.entryReleased t e x y
  waiting : ∀ q, (∀ e ∈ l, ∀ r rest, ¬ s.passes t e q r rest) → s'.port q = s.port q ∧ recordsFor recs q = []
  taken : ∀ e ∈ l, ∀ q r rest, s.passes t e q r rest → s'.port q = (s.port q).headTaken rest
    ∧ recordsFor recs q = [recordWithoutBus r r.entry .ok (some .reset)]

/-- To release no lock changes nothing. -/
theorem State.locksReleased_nil (s : State) (t : Port) : s.locksReleased t [] s [] :=
  ⟨rfl, fun _ h => h, fun _ _ => rfl, by simp, fun _ _ => ⟨rfl, rfl⟩, by simp⟩

/-- An entry that port `t` has not locked is left. -/
theorem State.locksReleased_skip {s : State} {t : Port} {e : EntryNo}
    (h : ((s.entry e).any fun x => x.owner = some t) = false) : s.locksReleased t [e] s [] := by
  have howner {x : Entry} (hx : s.entry e = some x) : x.owner ≠ some t := by simpa [hx] using h
  have hpasses {q : Port} {r : Request} {rest : List Request} : ¬ s.passes t e q r rest :=
    fun ⟨_, hx, ho, _⟩ => howner hx ho
  refine ⟨rfl, fun _ h => h, fun _ _ => rfl, fun e' he' x hx => ?_, fun _ _ => ⟨rfl, rfl⟩, fun e' he' _ _ _ hp => ?_⟩
  · obtain rfl := List.mem_singleton.mp he'
    exact ⟨x, hx, fun _ => rfl, fun ho => absurd ho (howner hx), fun _ _ _ hp => absurd hp hpasses⟩
  · obtain rfl := List.mem_singleton.mp he'
    exact absurd hp hpasses

/-- A lock that port `t` owns is released: it passes to its heir, or becomes free (R76). -/
theorem State.locksReleased_release {s : State} {t : Port} {e : EntryNo} {x : Entry} (hx : s.entry e = some x)
    (ho : x.owner = some t) : s.locksReleased t [e] (s.release e .reset).1 (s.release e .reset).2 := by
  by_cases h : ∃ q r rest, s.passes t e q r rest
  case pos =>
    obtain ⟨q, r, rest, hp⟩ := h
    obtain ⟨x', hx', -, ha, hheir⟩ := id hp
    cases hx.symm.trans hx'
    rw [State.release_claimed hx ha hheir]
    refine ⟨rfl, fun e' he' => ?_, fun e' he' => ?_, fun e' he' y hy => ?_, fun q' hq' => ?_,
      fun e' he' q' r' rest' hp' => ?_⟩
    · have hne : e' ≠ e := by rintro rfl; simp [hx] at he'
      simp [hne, he']
    · simp [List.mem_singleton.not.mp he']
    · obtain rfl := List.mem_singleton.mp he'
      cases hx.symm.trans hy
      refine ⟨_, (State.entry_setEntry s e' e' _).trans (if_pos rfl), fun hne => absurd ho hne,
        fun _ hnone => absurd hp (hnone q r rest), fun q' r' rest' hp' => ?_⟩
      obtain ⟨rfl, rfl, rfl⟩ := hp.unique_port hp'
      rfl
    · have hne : q' ≠ q := by rintro rfl; exact hq' e (List.mem_singleton_self e) r rest hp
      simp [hne, Ne.symm hne]
    · obtain rfl := List.mem_singleton.mp he'
      obtain ⟨rfl, rfl, rfl⟩ := hp.unique_port hp'
      simp [previousOf]
  case neg =>
    have hnone {q : Port} {r : Request} {rest : List Request} : ¬ s.passes t e q r rest :=
      fun hp => h ⟨q, r, rest, hp⟩
    have hfree : x.nackCount = 3 ∨ ∀ q r rest d, ¬ s.waitsFor e q r rest d := by
      refine or_iff_not_imp_left.mpr fun ha q r rest d hw => ?_
      obtain ⟨q', r', rest', hheir⟩ := State.exists_heir hw
      exact hnone ⟨x, hx, ho, ha, hheir⟩
    rw [State.release_unclaimed hx hfree]
    refine ⟨rfl, fun e' he' => ?_, fun e' he' => ?_, fun e' he' y hy => ?_, fun q' hq' => ⟨rfl, rfl⟩,
      fun e' he' q' r' rest' hp' => ?_⟩
    · have hne : e' ≠ e := by rintro rfl; simp [hx] at he'
      simp [hne, he']
    · simp [List.mem_singleton.not.mp he']
    · obtain rfl := List.mem_singleton.mp he'
      cases hx.symm.trans hy
      exact ⟨_, by simp, fun hne => absurd ho hne, fun _ _ => rfl, fun _ _ _ hp => absurd hp hnone⟩
    · obtain rfl := List.mem_singleton.mp he'
      exact absurd hp' hnone

/-- The release of some locks leaves who waits for another. -/
theorem State.locksReleased.waitsFor_iff {s s' : State} {t : Port} {l : List EntryNo} {recs : List (Port × Completion)}
    (h : s.locksReleased t l s' recs) {e : EntryNo} (he : e ∉ l) {q : Port} {r : Request} {rest : List Request}
    {d : Nat} : s'.waitsFor e q r rest d ↔ s.waitsFor e q r rest d := by
  by_cases hq : ∃ e' ∈ l, ∃ r' rest', s.passes t e' q r' rest'
  · obtain ⟨e', he', r', rest', hp⟩ := hq
    obtain ⟨hport, -⟩ := h.taken e' he' q r' rest' hp
    obtain ⟨x, -, -, -, d', ⟨hhead, -, hnames, -⟩, -⟩ := hp
    refine iff_of_false (fun ⟨_, _, _, _, _, hd, _⟩ => ?_) fun ⟨hhead', _, hnames', _⟩ => ?_
    · rw [hport] at hd
      cases hd
    · obtain ⟨rfl, -⟩ := List.cons.inj (hhead.symm.trans hhead')
      exact he (Fin.ext (hnames'.symm.trans hnames) ▸ he')
  · obtain ⟨hport, -⟩ := h.waiting q fun e' he' r' rest' hp => hq ⟨e', he', r', rest', hp⟩
    exact State.waitsFor_congr (h.others e he) (by rw [hport]) (by rw [hport]) (by rw [hport]) (by rw [hport])
      (by rw [hport])

/-- So it leaves whom another lock passes to (log 10). -/
theorem State.locksReleased.passes_iff {s s' : State} {t : Port} {l : List EntryNo} {recs : List (Port × Completion)}
    (h : s.locksReleased t l s' recs) {e : EntryNo} (he : e ∉ l) {q : Port} {r : Request} {rest : List Request} :
    s'.passes t e q r rest ↔ s.passes t e q r rest :=
  State.passes_congr (h.others e he) fun _ _ _ _ _ _ _ => h.waitsFor_iff he

/-- Some locks released, and then some others. -/
theorem State.locksReleased.append {s s₁ s₂ : State} {t : Port} {l m : List EntryNo}
    {recs more : List (Port × Completion)} (h : s.locksReleased t l s₁ recs) (h' : s₁.locksReleased t m s₂ more)
    (hd : l.Disjoint m) : s.locksReleased t (l ++ m) s₂ (recs ++ more) := by
  have hpasses {e : EntryNo} (he : e ∈ m) {q : Port} {r : Request} {rest : List Request} :
      s₁.passes t e q r rest ↔ s.passes t e q r rest := h.passes_iff fun hl => hd hl he
  refine ⟨?frame, fun e he => h'.empty e (h.empty e he), fun e he => ?others, fun e he x hx => ?entries,
    fun q hq => ?waiting, fun e he q r rest hp => ?taken⟩
  case frame =>
    have h₁ := h.frame
    have h₂ := h'.frame
    rw [h₁] at h₂
    exact h₂
  case others =>
    rw [List.mem_append, not_or] at he
    obtain ⟨hl, hm⟩ := he
    exact (h'.others e hm).trans (h.others e hl)
  case entries =>
    rcases List.mem_append.mp he with hl | hm
    · obtain ⟨y, hy, hrel⟩ := h.entries e hl x hx
      exact ⟨y, (h'.others e fun hm => hd hl hm).trans hy, hrel⟩
    · obtain ⟨y, hy, hrel⟩ := h'.entries e hm x ((h.others e fun hl => hd hl hm).trans hx)
      exact ⟨y, hy, hrel.kept, fun ho hnone => hrel.freed ho fun q r rest hp => hnone q r rest ((hpasses hm).mp hp),
        fun q r rest hp => hrel.passed q r rest ((hpasses hm).mpr hp)⟩
  case waiting =>
    obtain ⟨hport, hrecs⟩ := h.waiting q fun e he => hq e (List.mem_append_left _ he)
    obtain ⟨hport', hrecs'⟩ := h'.waiting q fun e he r rest hp =>
      hq e (List.mem_append_right _ he) r rest ((hpasses he).mp hp)
    exact ⟨hport'.trans hport, by rw [recordsFor_append, hrecs, hrecs', List.nil_append]⟩
  case taken =>
    rcases List.mem_append.mp he with hl | hm
    · obtain ⟨hport, hrecs⟩ := h.taken e hl q r rest hp
      obtain ⟨hport', hrecs'⟩ := h'.waiting q fun e' he' r' rest' hp' => by
        obtain ⟨rfl, -⟩ := hp.unique ((hpasses he').mp hp')
        exact hd hl he'
      exact ⟨hport'.trans hport, by rw [recordsFor_append, hrecs, hrecs', List.append_nil]⟩
    · obtain ⟨hport, hrecs⟩ := h.waiting q fun e' he' r' rest' hp' => by
        obtain ⟨rfl, -⟩ := hp.unique hp'
        exact hd he' hm
      obtain ⟨hport', hrecs'⟩ := h'.taken e hm q r rest ((hpasses hm).mpr hp)
      exact ⟨by rw [hport', hport], by rw [recordsFor_append, hrecs, hrecs', List.nil_append]⟩

/-- The release of a port's locks on a list of entries, one after the other. -/
theorem State.locksReleased_releaseOwned (t : Port) (l : List EntryNo) (hl : l.Nodup)
    (x : State × List (Port × Completion)) : ∃ more, (State.releaseOwned t l x).2 = x.2 ++ more
      ∧ x.1.locksReleased t l (State.releaseOwned t l x).1 more := by
  induction l generalizing x with
  | nil => exact ⟨[], (List.append_nil _).symm, x.1.locksReleased_nil t⟩
  | cons e es ih =>
    obtain ⟨he, hes⟩ := List.nodup_cons.mp hl
    have hd : [e].Disjoint es := by simpa using he
    unfold State.releaseOwned
    split
    next howned =>
      obtain ⟨en, hen, ho⟩ := (Option.any_eq_true _ _).mp howned
      obtain ⟨more, hmore, hrel⟩ := ih hes ((x.1.release e .reset).1, x.2 ++ (x.1.release e .reset).2)
      exact ⟨_, by rw [hmore, List.append_assoc], (State.locksReleased_release hen (by simpa using ho)).append hrel hd⟩
    next howned =>
      obtain ⟨more, hmore, hrel⟩ := ih hes x
      exact ⟨more, hmore, (State.locksReleased_skip (by simpa using howned)).append hrel hd⟩

end Sys2Proof.Machine

/-! SUPPORT. A HOLD that is carried out, part by part, and the statement about it. -/

namespace Sys2Proof.Machine

/-! ### The parts of a HOLD -/

/-- A HOLD before the target's locks are released: its own port, its polls and its transaction (R48, R101, R137). -/
def State.beginHold (s : State) (t : Port) (o : HoldOrigin) : State :=
  { (s.modPort t fun u => u.hold o) with scheduler := s.scheduler.hold t }

/-- A port after the first part of a HOLD. -/
theorem State.port_beginHold (s : State) (t q : Port) (o : HoldOrigin) :
    (s.beginHold t o).port q = if q = t then (s.port q).hold o else s.port q :=
  s.port_modPort t q fun u => u.hold o

/-- The Poll Table after the first part of a HOLD: the target's polls are gone (R101). -/
theorem State.poll_beginHold (s : State) (t : Port) (o : HoldOrigin) (k : SlotNo) :
    (s.beginHold t o).poll k = (s.poll k).filter fun q => q.port ≠ t := by
  simp [State.beginHold, State.poll, Scheduler.hold]
  rfl

/-- A HOLD whose locks have been released, before it is judged: the watch sets without the target, and PEER (R137,
R156). -/
def State.endHold (s : State) (t : Port) : State :=
  (s.mapEntries fun en => { en with watchSet := withoutBit en.watchSet t }).raisePeer t

/-- An entry of a HOLD before it is judged. -/
theorem State.entry_endHold (s : State) (t : Port) (e : EntryNo) : (s.endHold t).entry e
    = (s.entry e).map fun en => { en with watchSet := withoutBit en.watchSet t } := by
  simp [State.endHold, State.raisePeer, State.raiseIn]

/-- A port of a HOLD before it is judged: PEER in every port but the target (R137). -/
theorem State.port_endHold (s : State) (t q : Port) :
    (s.endHold t).port q = if q = t then s.port q else (s.port q).raise .peer := by
  by_cases h : q = t <;> simp [State.endHold, State.raisePeer, h]

/-- The end of a HOLD leaves the Poll Table. -/
theorem State.poll_endHold (s : State) (t : Port) (k : SlotNo) : (s.endHold t).poll k = s.poll k := by
  simp [State.endHold, State.raisePeer, State.raiseIn]

/-- Before it is judged a HOLD has changed ports, directory and scheduler alone. -/
theorem State.endHold_eq (s : State) (t : Port) :
    s.endHold t = { s with ports := (s.endHold t).ports, directory := (s.endHold t).directory } := by
  simp [State.endHold, State.raisePeer, State.raiseIn, State.mapPorts, State.mapEntries]

/-- A HOLD in its parts: the locks released in between, and all judged at the end (R137). -/
theorem State.holdPort_eq (s : State) (t : Port) (o : HoldOrigin) : ∃ (s' : State) (recs : List (Port × Completion)),
    s.holdPort t o = (s'.endHold t).settle recs ∧ (s.beginHold t o).locksReleased t (List.finRange 32) s' recs := by
  obtain ⟨more, hmore, hrel⟩ :=
    State.locksReleased_releaseOwned t (List.finRange 32) (List.nodup_finRange 32) (s.beginHold t o, [])
  rw [List.nil_append] at hmore
  refine ⟨_, more, ?_, hrel⟩
  rw [← hmore]
  rfl

/-! ### Judging after a HOLD -/

/-- Judging leaves the port a poll belongs to. -/
theorem State.port_of_judgeSlot {s : State} {q q' : Poll} (h : s.judgeSlot q = .keep q') : q'.port = q.port := by
  have hdue {q' : Poll} (h : s.judgeDue q = .keep q') : q'.port = q.port := by
    unfold State.judgeDue at h
    split at h
    · cases h
    · split at h
      · cases h
      · split at h
        · split at h
          · cases h
          · cases h; rfl
        · cases h; rfl
  unfold State.judgeSlot at h
  split at h
  · exact hdue h
  · split at h
    · cases h; rfl
    · exact hdue h
  · cases h; rfl
  · cases h; rfl

/-- A port without polls has none after judging, and judging gives it no record. -/
theorem State.settle_withoutPolls {s : State} {t : Port} (h : ∀ k q, s.poll k = some q → q.port ≠ t)
    (recs : List (Port × Completion)) :
    (∀ k q, (s.settle recs).poll k = some q → q.port ≠ t) ∧ recordsFor s.pollEnds t = [] := by
  refine ⟨fun k q hq => ?_, List.eq_nil_iff_forall_not_mem.mpr fun rec hrec => ?_⟩
  · rw [State.poll_settle] at hq
    obtain ⟨q', hq', hj⟩ := Option.bind_eq_some_iff.mp hq
    cases hv : s.judgeSlot q' with
    | ends st => simp [hv] at hj
    | keep q'' =>
      obtain rfl : q'' = q := by simpa [hv] using hj
      rw [State.port_of_judgeSlot hv]
      exact h k q' hq'
  · obtain ⟨k, q, st, hq, -, hz⟩ := State.mem_pollEnds.mp (mem_recordsFor.mp hrec)
    exact h k q hq (Prod.mk.inj hz).1.symm

/-- A port with no request, no poll and no record to come is left by judging. -/
theorem State.port_settle_bare {s : State} {t : Port} (hq : (s.port t).requests = [])
    (hp : ∀ k q, s.poll k = some q → q.port ≠ t) {recs : List (Port × Completion)} (hr : recordsFor recs t = []) :
    (s.settle recs).port t = s.port t := by
  obtain ⟨-, hends⟩ := State.settle_withoutPolls hp recs
  have hleft := State.judgedPort_left (s := s) (p := t) (.inr fun r hr => by simp [hq] at hr)
  rw [State.port_settle_eq, recordsFor_append, hr, hends, hleft]
  simp

/-- What judging leaves of a port. -/
theorem State.settle_leaves (s : State) (recs : List (Port × Completion)) (q : Port) :
    ((s.settle recs).port q).state = (s.port q).state ∧ ((s.settle recs).port q).level = (s.port q).level
      ∧ ((s.settle recs).port q).lastResult = (s.port q).lastResult := by
  rw [State.port_settle_eq]
  exact ⟨rfl, rfl, rfl⟩

/-- Who waits for a lock of the target's is not changed by the first part of the HOLD, nor by the end of its frame. -/
theorem State.waitsFor_beginHold {s : State} {p t : Port} {o : HoldOrigin} {e : EntryNo} {x : Entry}
    (hx : s.entry e = some x) (ho : x.owner = some t) {q : Port} {r : Request} {rest : List Request} {d : Nat} :
    ((s.setPort p ((s.port p).afterFrame .done)).beginHold t o).waitsFor e q r rest d ↔ s.waitsFor e q r rest d := by
  by_cases hq : q = t
  · subst hq
    have hnot (u : State) (hu : u.entry e = some x) : ¬ u.waitsFor e q r rest d := by
      rintro ⟨-, -, -, ⟨x', q', hx', ho', hne⟩, -⟩
      cases hu.symm.trans hx'
      cases ho.symm.trans ho'
      exact hne rfl
    exact iff_of_false (hnot _ hx) (hnot s hx)
  · have hport := (s.setPort p ((s.port p).afterFrame .done)).port_beginHold t q o
    rw [if_neg hq, State.port_setPort] at hport
    refine State.waitsFor_congr (s := s) (s' := (s.setPort p ((s.port p).afterFrame .done)).beginHold t o) rfl
      ?_ ?_ ?_ ?_ ?_ <;> rw [hport] <;> split <;> simp_all [PortUnit.afterFrame]

/-- So the target's locks pass as the state before the HOLD has it. -/
theorem State.passes_beginHold {s : State} {p t : Port} {o : HoldOrigin} {e : EntryNo} {q : Port} {r : Request}
    {rest : List Request} : ((s.setPort p ((s.port p).afterFrame .done)).beginHold t o).passes t e q r rest
      ↔ s.passes t e q r rest :=
  State.passes_congr (s := s) (s' := (s.setPort p ((s.port p).afterFrame .done)).beginHold t o) rfl
    fun _ hx ho _ _ _ _ => State.waitsFor_beginHold hx ho

/-! ### What a HOLD leaves -/

section
variable {s s' : State} {t : Port} {o : HoldOrigin} {recs : List (Port × Completion)}

/-- Every other port that takes no lock is left but for PEER (R137). -/
theorem State.locksReleased.port_waiting (h : (s.beginHold t o).locksReleased t (List.finRange 32) s' recs) {q : Port}
    (hq : q ≠ t) (hnone : ∀ e r rest, ¬ (s.beginHold t o).passes t e q r rest) :
    (s'.endHold t).port q = (s.port q).raise .peer ∧ recordsFor recs q = [] := by
  obtain ⟨hport, hrecs⟩ := h.waiting q fun e _ => hnone e
  exact ⟨by rw [State.port_endHold, if_neg hq, hport, State.port_beginHold, if_neg hq], hrecs⟩

/-- A port that takes a lock loses its head, gets PEER and the head's record (R76, R137). -/
theorem State.locksReleased.port_taken (h : (s.beginHold t o).locksReleased t (List.finRange 32) s' recs) {e : EntryNo}
    {q : Port} {r : Request} {rest : List Request} (hp : (s.beginHold t o).passes t e q r rest) :
    (s'.endHold t).port q = ((s.port q).headTaken rest).raise .peer
      ∧ recordsFor recs q = [recordWithoutBus r r.entry .ok (some .reset)] := by
  obtain ⟨hport, hrecs⟩ := h.taken e (List.mem_finRange e) q r rest hp
  have hq := hp.ne_owner
  exact ⟨by rw [State.port_endHold, if_neg hq, hport, State.port_beginHold, if_neg hq], hrecs⟩

/-- The target's polls are gone before heads and slots are judged (R101). -/
theorem State.locksReleased.poll_endHold (h : (s.beginHold t o).locksReleased t (List.finRange 32) s' recs)
    (k : SlotNo) : (s'.endHold t).poll k = (s.poll k).filter fun q => q.port ≠ t := by
  rw [State.poll_endHold, ← s.poll_beginHold t o, h.frame]
  rfl

/-- The target has no poll before heads and slots are judged (R101). -/
theorem State.locksReleased.noPoll (h : (s.beginHold t o).locksReleased t (List.finRange 32) s' recs) (k : SlotNo)
    (q : Poll) (hq : (s'.endHold t).poll k = some q) : q.port ≠ t := by
  rw [h.poll_endHold, Option.filter_eq_some_iff] at hq
  exact of_decide_eq_true hq.2

/-- The target is as its own part of the HOLD leaves it: it takes no lock and nothing of it is judged. -/
theorem State.locksReleased.port_target (h : (s.beginHold t o).locksReleased t (List.finRange 32) s' recs) :
    ((s'.endHold t).settle recs).port t = (s.port t).hold o := by
  obtain ⟨hport, hrecs⟩ := h.waiting t fun _ _ _ _ hp => hp.ne_owner rfl
  have hend : (s'.endHold t).port t = (s.port t).hold o := by
    rw [State.port_endHold, if_pos rfl, hport, State.port_beginHold, if_pos rfl]
  rw [State.port_settle_bare (by rw [hend]; rfl) h.noPoll hrecs, hend]

/-- Another port keeps state, level and result of its last frame, and PEER is raised in it if it is ACTIVE (R137). -/
theorem State.locksReleased.port_other (h : (s.beginHold t o).locksReleased t (List.finRange 32) s' recs) {q : Port}
    (hq : q ≠ t) : (((s'.endHold t).settle recs).port q).state = (s.port q).state
      ∧ (((s'.endHold t).settle recs).port q).level = (s.port q).level
      ∧ (((s'.endHold t).settle recs).port q).lastResult = (s.port q).lastResult
      ∧ ((s.port q).state = .active →
          hasBit (((s'.endHold t).settle recs).port q).notify.flags Flag.peer.index = true) := by
  obtain ⟨hstate, hlevel, hresult⟩ := (s'.endHold t).settle_leaves recs q
  rw [hstate, hlevel, hresult, State.notify_settle]
  by_cases hp : ∃ e r rest, (s.beginHold t o).passes t e q r rest
  · obtain ⟨e, r, rest, hp⟩ := hp
    obtain ⟨hport, -⟩ := h.port_taken hp
    rw [hport, PortUnit.hasBit_raise, PortUnit.raise_eq]
    simp +contextual [PortUnit.headTaken]
  · obtain ⟨hport, -⟩ := h.port_waiting hq fun e r rest hp' => hp ⟨e, r, rest, hp'⟩
    rw [hport, PortUnit.hasBit_raise, PortUnit.raise_eq]
    simp +contextual

/-- The scheduler after the locks are released is that of the HOLD's first part; time base, phase, engine and loader are
untouched. -/
theorem State.locksReleased.kept (h : (s.beginHold t o).locksReleased t (List.finRange 32) s' recs) :
    (s'.endHold t).scheduler = s.scheduler.hold t ∧ (s'.endHold t).timeBase = s.timeBase
      ∧ (s'.endHold t).phase = s.phase ∧ (s'.endHold t).engine = s.engine ∧ (s'.endHold t).loader = s.loader := by
  rw [State.endHold_eq, h.frame]
  exact ⟨rfl, rfl, rfl, rfl, rfl⟩

/-- An entry after the HOLD: its lock as the release leaves it, its watch set without the target (R137). -/
theorem State.locksReleased.entry_some (h : (s.beginHold t o).locksReleased t (List.finRange 32) s' recs) {e : EntryNo}
    {x : Entry} (hx : s.entry e = some x) : ∃ y, (s.beginHold t o).entryReleased t e x y
      ∧ ((s'.endHold t).settle recs).entry e = some { y with watchSet := withoutBit y.watchSet t } := by
  obtain ⟨y, hy, hrel⟩ := h.entries e (List.mem_finRange e) x hx
  exact ⟨y, hrel, by rw [State.entry_settle, State.entry_endHold, hy]; rfl⟩

/-- An empty slot stays empty. -/
theorem State.locksReleased.entry_none (h : (s.beginHold t o).locksReleased t (List.finRange 32) s' recs) {e : EntryNo}
    (hx : s.entry e = none) : ((s'.endHold t).settle recs).entry e = none := by
  rw [State.entry_settle, State.entry_endHold, h.empty e hx]
  rfl

end

/-- Whatever becomes of a lock, the entry keeps the rest, its owner is not the port released, and a lock of that port
leaves RESET (R76, R82). -/
theorem State.entryReleased.result {s : State} {t : Port} {e : EntryNo} {x y : Entry} (h : s.entryReleased t e x y) :
    y = { x with owner := y.owner, leaseValue := y.leaseValue, leaseRemaining := y.leaseRemaining,
                 releaseReason := y.releaseReason }
      ∧ y.owner ≠ some t ∧ (x.owner = some t → y.releaseReason = .reset) := by
  by_cases ho : x.owner = some t
  · by_cases hp : ∃ q r rest, s.passes t e q r rest
    · obtain ⟨q, r, rest, hp⟩ := hp
      rw [h.passed q r rest hp]
      exact ⟨rfl, fun hq => hp.ne_owner (Option.some.inj hq), fun _ => rfl⟩
    · rw [h.freed ho fun q r rest hp' => hp ⟨q, r, rest, hp'⟩]
      exact ⟨rfl, nofun, fun _ => rfl⟩
  · rw [h.kept ho]
    exact ⟨rfl, ho, fun ho' => absurd ho' ho⟩

/-- Settles O28: the HOLD in its parts, each lock by what becomes of it alone, each port by whether a lock passes to
it. -/
theorem holdClearsTarget : Obligations.HoldClearsTarget := by
  intro s p bits f n more t u given hjudged ht hactive hperm hu hgiven
  obtain ⟨s₁, recs, hhold, hrel⟩ := (s.setPort p ((s.port p).afterFrame .done)).holdPort_eq t
    (if t = p then .self else .port p)
  have hexec : exec (.hold p bits) s = .next ((s₁.endHold t).settle recs) := by
    rw [exec_hold_target hjudged ht, if_neg (by simp [hactive]),
      if_neg (fun ⟨hne, hl⟩ => hperm.elim hne hl), if_neg (by simp [hactive]), hhold]
  have hpasses {e q r rest} : ((s.setPort p ((s.port p).afterFrame .done)).beginHold t
      (if t = p then .self else .port p)).passes t e q r rest ↔ given e q r rest :=
    State.passes_beginHold.trans (hgiven e q r rest).symm
  have hstart (q : Port) : (s.setPort p ((s.port p).afterFrame .done)).port q = u q := by
    rw [State.port_setPort, hu]
  have hkept (q : Port) : (u q).state = (s.port q).state ∧ (u q).level = (s.port q).level := by
    rw [hu]
    split
    next hqp => subst hqp; exact ⟨rfl, rfl⟩
    next => exact ⟨rfl, rfl⟩
  obtain ⟨hscheduler, htime, hphase, hengine, hloader⟩ := hrel.kept
  have htarget := hrel.port_target
  rw [hstart] at htarget
  refine ⟨_, s₁.endHold t, recs, hexec, rfl, ?_⟩
  rw [htarget, State.current_settle, State.turn_settle, State.timeBase_settle, State.phase_settle, State.engine_settle,
    State.loader_settle, hscheduler, htime, hphase, hengine, hloader]
  refine ⟨rfl, rfl, rfl, rfl, rfl, rfl, rfl, rfl, rfl, ?notify, ?level, ?frame, fun q hq hnone => ?waiting,
    fun e q r rest hp => ?taken, fun k => hrel.poll_endHold k, fun k q hq => ?polls, rfl, fun e x hx => ?entry,
    fun e he => hrel.entry_none he, fun q hq => ?others, fun hne => ?sender, rfl, rfl, rfl, rfl, rfl⟩
  case notify =>
    show { (u t).notify with flags := 0, mask := 0, changed := 0, clearList := .absent } = _
    rw [hu]
    split
    next htp => subst htp; rfl
    next => rfl
  case level => exact (hkept t).2
  case frame =>
    show (u t).frame.noteHold = _
    cases (u t).frame <;> rfl
  case waiting =>
    rw [← hstart]
    exact hrel.port_waiting hq fun e r rest hp => hnone e r rest (hpasses.mp hp)
  case taken =>
    rw [← hstart]
    exact ⟨(hpasses.mpr hp).ne_owner, hrel.port_taken (hpasses.mpr hp)⟩
  case polls =>
    obtain ⟨hnone, -⟩ := State.settle_withoutPolls hrel.noPoll recs
    exact hnone k q hq
  case entry =>
    obtain ⟨y, hy, hentry⟩ := hrel.entry_some hx
    obtain ⟨hrest, howner, hreason⟩ := hy.result
    refine ⟨_, hentry, by rw [hrest], by rw [hrest], by rw [hrest], by rw [hrest], by rw [hrest], howner, by simp,
      fun q => ?_, hreason, fun ho hnone => ?_, fun q r rest hp => ?_, fun ho => ?_⟩
    · rw [hasBit_withoutBit, hrest, decide_not]
      rfl
    · rw [hy.freed ho fun q r rest hp => hnone q r rest (hpasses.mp hp)]
      exact ⟨rfl, rfl, rfl⟩
    · rw [hy.passed q r rest (hpasses.mpr hp)]
      exact ⟨rfl, rfl, rfl⟩
    · rw [hy.kept ho]
      exact ⟨rfl, rfl, rfl, rfl⟩
  case others =>
    obtain ⟨hstate, hlevel, -, hpeer⟩ := hrel.port_other hq
    obtain ⟨hus, hul⟩ := hkept q
    rw [hstart, hus] at hstate hpeer
    rw [hstart, hul] at hlevel
    exact ⟨hstate, hlevel, hpeer⟩
  case sender =>
    obtain ⟨-, -, hresult, -⟩ := hrel.port_other (Ne.symm hne)
    rw [hresult, State.port_setPort, if_pos rfl]
    rfl

end Sys2Proof.Machine

/-! SUPPORT. Events, change notices and NOTIFY lines (chapter 8): the flags that are shown, what raising an event does,
the own rules of the frames about them, and the statements. -/

namespace Sys2Proof.Machine

/-! ### Flags and NOTIFY lines (R146, R148, R155) -/

/-- The edge flags are all but COMPLETION. -/
theorem hasBit_edgeFlags (i : Fin 10) : hasBit edgeFlags i = (i != 0) := by
  decide +revert

/-- Place 0 alone. -/
theorem hasBit_completionPlace (i : Fin 10) : hasBit (1#10) i = decide (i = 0) := by
  decide +revert

/-- A flag is shown as it stands, COMPLETION while the Completion Queue holds a record. -/
theorem PortUnit.hasBit_shownFlags {u : PortUnit} {i : Fin 10} : hasBit u.shownFlags i = true ↔
    (i = 0 ∧ u.completions ≠ []) ∨ (i ≠ 0 ∧ hasBit u.notify.flags i = true) := by
  have hbit : hasBit u.shownFlags i = (hasBit u.notify.flags i && hasBit edgeFlags i
      || hasBit (if u.completions.isEmpty then 0#10 else 1#10) i) := by
    simp only [hasBit, PortUnit.shownFlags, BitVec.getLsbD_or, BitVec.getLsbD_and]
  rw [hbit, hasBit_edgeFlags]
  cases hc : u.completions with
  | nil => simp [and_comm]
  | cons r rest => simp [hasBit_completionPlace, and_comm, or_comm]

/-- Settles O23: a line looks at the ports routed to it, and a port at the flags it shows and its mask. -/
theorem notifyLineFollowsFlags : Obligations.NotifyLineFollowsFlags := by
  intro s n
  have hline : s.notifyAsserted n = true ↔ ∃ p, (s.port p).notify.route = n ∧ (s.port p).eventPending = true := by
    simp [State.notifyAsserted]
  rw [hline]
  simp only [PortUnit.eventPending_iff, PortUnit.hasBit_shownFlags, and_comm]

/-! ### Raising an event, and write notices (R147, R149, R153) -/

/-- An event is lost on a port that is not ACTIVE. -/
theorem PortUnit.raise_inactive {u : PortUnit} (h : u.state ≠ .active) (f : Flag) : u.raise f = u := if_neg h

/-- An event on an ACTIVE port. -/
theorem PortUnit.raise_active {u : PortUnit} (h : u.state = .active) (f : Flag) : u.raise f = { u with
    notify := { u.notify with flags := withBit u.notify.flags f.index, clearList := u.notify.clearList.dropFlag f } } :=
  if_pos h

/-- Only a clear list of flags loses a flag. -/
theorem ClearList.dropFlag_of_ne {c : ClearList} (h : ∀ l, c ≠ .flags l) (f : Flag) : c.dropFlag f = c := by
  cases c with
  | flags l => exact absurd rfl (h l)
  | absent | entries => rfl

/-- Only a clear list of entries loses an entry. -/
theorem ClearList.dropEntry_of_ne {c : ClearList} (h : ∀ l, c ≠ .entries l) (e : EntryNo) : c.dropEntry e = c := by
  cases c with
  | entries l => exact absurd rfl (h l)
  | absent | flags => rfl

/-- The members of a set with one member removed, in the statements' words. -/
theorem hasBit_withoutBit_ne {w : Nat} (s : BitVec w) (i j : Fin w) :
    hasBit (withoutBit s i) j = (hasBit s j && j != i) := by
  rw [hasBit_withoutBit, decide_not]
  rfl

/-- Settles O22: a raise by the port's state, a write notice port by port. -/
theorem writeNoticeTellsWatchers : Obligations.WriteNoticeTellsWatchers := by
  refine ⟨fun u f => ⟨fun h => PortUnit.raise_inactive h f, fun h => ⟨_, _, PortUnit.raise_active h f,
      fun i => ?flag, fun l hl => ?listed, fun hl => ClearList.dropFlag_of_ne hl f⟩⟩,
    fun s e x writer hx => ⟨_, rfl, fun q hq => ?untold, fun q hne hq => ?told, ?rest⟩⟩
  case flag => exact hasBit_withBit _ _ _
  case listed => exact ⟨_, by rw [hl]; rfl, fun i => hasBit_withoutBit_ne l f.index i⟩
  case untold =>
    rw [State.port_writeNotice hx, if_neg]
    rintro ⟨hw, hne⟩
    rcases hq with rfl | hq
    · exact hne rfl
    · simp [hw] at hq
  case told =>
    rw [State.port_writeNotice hx, if_pos ⟨hq, hne⟩]
    exact ⟨_, _, rfl, fun e' => hasBit_withBit _ _ _,
      fun l hl => ⟨_, by rw [hl]; rfl, fun e' => hasBit_withoutBit_ne l e e'⟩,
      fun hl => ClearList.dropEntry_of_ne hl e⟩
  case rest => rw [State.writeNotice_eq]

/-! ### Frames judged by their commands' own rules -/

/-- What a frame that ends at a port hands to its command's own rule. -/
def Frame.ending (f : Frame) (u : PortUnit) (args : List Byte) : FrameEnd :=
  { response := f.response, heldSince := f.heldSince, clearList := u.notify.clearList, args := args }

/-- A frame that passes the port-level handling is judged by its command's own rule. -/
theorem exec_judged {s : State} {p : Port} {bits : List Bool} {f : Frame} {c : Command} {args : List Byte}
    (h : s.frameJudged p bits f c args) :
    exec (frameEndOf c p bits) s = .next (c.rule p (f.ending (s.port p) args) (s.closeFrame p)) := by
  rw [exec_frameEndOf, State.frameEnd_judged h]
  rfl

/-- A frame whose rule stores a result and does nothing else. -/
theorem exec_judged_result {s : State} {p : Port} {bits : List Bool} {f : Frame} {c : Command} {args : List Byte}
    {r : ResultCode} (h : s.frameJudged p bits f c args)
    (hr : c.rule p (f.ending (s.port p) args) (s.closeFrame p) = (s.closeFrame p).setResult p r) :
    exec (frameEndOf c p bits) s = .next (s.setPort p ((s.port p).afterFrame r)) := by
  rw [exec_judged h, hr, State.setResult_closeFrame]

/-- A frame that changes the Notify Unit's state and stores a result, as a write of the port. -/
theorem State.modNotify_closeFrame (s : State) (p : Port) (g : NotifyUnit → NotifyUnit) (r : ResultCode) :
    ((s.closeFrame p).modPort p fun u => u.modNotify g).setResult p r = s.setPort p { (s.port p).afterFrame r with
      notify := g ((s.port p).afterFrame r).notify } := by
  simp [State.closeFrame, State.setResult, State.modPort, PortUnit.afterFrame, PortUnit.modNotify]

/-! ### EVENTS and CHANGES (R149, R154) -/

/-- What an EVENTS frame clears: the flags still on its clear list, when it is read whole. -/
def FrameEnd.flagsRead (f : FrameEnd) : FlagSet :=
  match f.clearList with
  | .flags l => if 4 ≤ f.whole then l else 0#10
  | .absent | .entries _ => 0#10

/-- What a CHANGES frame takes out of the Changed Set: the entries still on its clear list, when it is read whole. -/
def FrameEnd.entriesRead (f : FrameEnd) : EntrySet :=
  match f.clearList with
  | .entries l => if 6 ≤ f.whole then l else 0#32
  | .absent | .flags _ => 0#32

/-- A whole EVENTS frame clears its clear list. -/
theorem FrameEnd.flagsRead_whole {f : FrameEnd} {l : FlagSet} (hl : f.clearList = .flags l) (hw : 4 ≤ f.whole) :
    f.flagsRead = l := by
  simp only [FrameEnd.flagsRead, hl, if_pos hw]

/-- An EVENTS frame that is cut short, or has no clear list of flags, clears no flag. -/
theorem FrameEnd.flagsRead_none {f : FrameEnd} (h : f.whole < 4 ∨ ∀ l, f.clearList ≠ .flags l) :
    f.flagsRead = 0#10 := by
  unfold FrameEnd.flagsRead
  cases hl : f.clearList with
  | flags l => exact if_neg (Nat.not_le.mpr (h.resolve_right fun hne => hne l hl))
  | absent | entries => rfl

/-- A whole CHANGES frame takes out its clear list. -/
theorem FrameEnd.entriesRead_whole {f : FrameEnd} {l : EntrySet} (hl : f.clearList = .entries l) (hw : 6 ≤ f.whole) :
    f.entriesRead = l := by
  simp only [FrameEnd.entriesRead, hl, if_pos hw]

/-- A CHANGES frame that is cut short, or has no clear list of entries, takes no entry out. -/
theorem FrameEnd.entriesRead_none {f : FrameEnd} (h : f.whole < 6 ∨ ∀ l, f.clearList ≠ .entries l) :
    f.entriesRead = 0#32 := by
  unfold FrameEnd.entriesRead
  cases hl : f.clearList with
  | entries l => exact if_neg (Nat.not_le.mpr (h.resolve_right fun hne => hne l hl))
  | absent | flags => rfl

/-- EVENTS' own rule clears what the frame has read, and nothing where it has read nothing. -/
theorem eventsRule_eq (p : Port) (f : FrameEnd) (s : State) : eventsRule p f s =
    (s.modPort p fun u => u.modNotify fun n => { n with flags := n.flags &&& ~~~f.flagsRead }).setResult p .done := by
  have hkeeps : (s.modPort p fun u => u.modNotify fun n => { n with flags := n.flags &&& ~~~(0#10) }) = s := by
    simp only [BitVec.not_zero, BitVec.and_allOnes]
    exact s.setPort_self p
  unfold eventsRule FrameEnd.flagsRead
  cases f.clearList with
  | flags l =>
    by_cases hw : 4 ≤ f.whole
    · simp only [if_pos hw]
    · simp only [if_neg hw, hkeeps]
  | absent | entries => simp only [hkeeps]

/-- CHANGES' own rule takes what the frame has read out of the Changed Set. -/
theorem changesRule_eq {s : State} (h : s.phase ≠ .config) (p : Port) (f : FrameEnd) : changesRule p f s =
    (s.modPort p fun u => u.modNotify fun n =>
      { n with changed := n.changed &&& ~~~f.entriesRead }).setResult p .done := by
  have hkeeps : (s.modPort p fun u => u.modNotify fun n => { n with changed := n.changed &&& ~~~(0#32) }) = s := by
    simp only [BitVec.not_zero, BitVec.and_allOnes]
    exact s.setPort_self p
  unfold changesRule FrameEnd.entriesRead
  rw [if_neg h]
  cases f.clearList with
  | entries l =>
    by_cases hw : 6 ≤ f.whole
    · simp only [if_pos hw]
    · simp only [if_neg hw, hkeeps]
  | absent | flags => simp only [hkeeps]

/-- Settles O19: each rule clears what its frame has read. -/
theorem eventsAndChangesClearShown : Obligations.EventsAndChangesClearShown := by
  intro s p bits f args
  refine ⟨fun h => ?events, fun h hrun => ?changes⟩
  case events =>
    have hrule := (exec_judged h).trans (congrArg Host.Outcome.next (eventsRule_eq p _ _))
    rw [State.modNotify_closeFrame] at hrule
    refine ⟨_, hrule, fun l hl hn i => ?_, fun hnone => ?_⟩
    · rw [FrameEnd.flagsRead_whole (f := f.ending (s.port p) args) hl hn]
      exact hasBit_minus _ l i
    · rw [FrameEnd.flagsRead_none (f := f.ending (s.port p) args) hnone, BitVec.not_zero]
      exact BitVec.and_allOnes
  case changes =>
    have hp : (s.closeFrame p).phase ≠ .config := by simp [hrun]
    have hrule := (exec_judged h).trans (congrArg Host.Outcome.next (changesRule_eq hp p _))
    rw [State.modNotify_closeFrame] at hrule
    refine ⟨_, hrule, fun l hl hn e => ?_, fun hnone => ?_⟩
    · rw [FrameEnd.entriesRead_whole (f := f.ending (s.port p) args) hl hn]
      exact hasBit_minus _ l e
    · rw [FrameEnd.entriesRead_none (f := f.ending (s.port p) args) hnone, BitVec.not_zero]
      exact BitVec.and_allOnes

/-! ### ACK_EVENTS and SET_MASK (R148, R150) -/

/-- The flags that two argument bytes name (section 10.6). -/
theorem hasBit_flagsOfBytes (b0 b1 : Byte) (i : Fin 10) :
    hasBit (flagsOfBytes b0 b1) i = if i.val < 8 then b0.getLsbD i.val else b1.getLsbD (i.val - 8) := by
  have hi := i.isLt
  have hhigh : i.val - 8 < 2 := by omega
  simp only [hasBit, flagsOfBytes, BitVec.getLsbD_setWidth, BitVec.getLsbD_append, hi, hhigh, decide_true,
    Bool.true_and]

/-- Settles O20: each rule writes one field of the Notify Unit's state, from the flags that the two bytes name. -/
theorem ackEventsAndSetMask : Obligations.AckEventsAndSetMask := by
  intro s p bits f b0 b1 more named hnamed
  have hbytes (i : Fin 10) : hasBit (flagsOfBytes b0 b1) i = named i :=
    (hasBit_flagsOfBytes b0 b1 i).trans (hnamed i).symm
  refine ⟨fun h => ⟨_, (exec_judged h).trans (congrArg _ (s.modNotify_closeFrame p _ .done)), fun i => ?ack⟩,
    fun h => ⟨_, (exec_judged h).trans (congrArg _ (s.modNotify_closeFrame p _ .done)), hbytes⟩⟩
  have hedge : hasBit (flagsOfBytes b0 b1 &&& edgeFlags) i = (named i && i != 0) := by
    rw [← hbytes, ← hasBit_edgeFlags]
    exact BitVec.getLsbD_and
  rw [← hedge]
  exact hasBit_minus _ _ i

/-! ### WATCH and UNWATCH (R151, R152) -/

/-- An occupied slot's entry changed, as a write of the slot. -/
theorem State.modEntry_eq {s : State} {e : EntryNo} {x : Entry} (hx : s.entry e = some x) (g : Entry → Entry) :
    s.modEntry e g = s.setEntry e (some (g x)) := by
  rw [State.modEntry, hx]
  rfl

/-- Some window gives read right (R13). -/
theorem Entry.readable_iff {x : Entry} {p : Port} :
    x.readable p = true ↔ ∃ w ∈ x.windows, hasBit w.readSet p = true := by
  simp [Entry.readable]

/-- The entry byte of a frame names no slot, or an empty one. -/
theorem bind_entry_eq_none {s : State} {n : Byte}
    (h : 32 ≤ n.toNat ∨ ∃ e : EntryNo, n.toNat = e.val ∧ s.entry e = none) :
    (entryOfByte n).bind s.entry = none := by
  rcases h with hn | ⟨e, he, hx⟩
  · rw [entryOfByte_eq_none.mpr hn]
    rfl
  · rw [entryOfByte_eq_some.mpr he]
    exact hx

section
variable {s : State} {p : Port} {f : FrameEnd}

/-- WATCH without an entry to watch. -/
theorem watchRule_noEntry (hp : s.phase ≠ .config) (h : (entryOfByte (f.arg 0)).bind s.entry = none) :
    watchRule p f s = s.setResult p .noEntry := by
  unfold watchRule
  rw [if_neg hp]
  cases he : entryOfByte (f.arg 0) with
  | none => rfl
  | some e =>
    have hx : s.entry e = none := by simpa [he] using h
    simp only [hx]

/-- WATCH of an entry, by the port's read right. -/
theorem watchRule_entry (hp : s.phase ≠ .config) {e : EntryNo} {x : Entry} (he : (f.arg 0).toNat = e.val)
    (hx : s.entry e = some x) : watchRule p f s =
      if x.readable p then (s.setEntry e (some { x with watchSet := withBit x.watchSet p })).setResult p .done
      else s.setResult p .denied := by
  simp only [watchRule, if_neg hp, entryOfByte_eq_some.mpr he, hx, State.modEntry_eq hx]

/-- UNWATCH without an entry. -/
theorem unwatchRule_noEntry (h : (entryOfByte (f.arg 0)).bind s.entry = none) :
    unwatchRule p f s = s.setResult p .noEntry := by
  unfold unwatchRule
  cases he : entryOfByte (f.arg 0) with
  | none => rfl
  | some e =>
    have hx : s.entry e = none := by simpa [he] using h
    simp only [hx]

/-- UNWATCH of an entry. -/
theorem unwatchRule_entry {e : EntryNo} {x : Entry} (he : (f.arg 0).toNat = e.val) (hx : s.entry e = some x) :
    unwatchRule p f s = ((s.modPort p fun u => u.modNotify fun n =>
      { n with changed := withoutBit n.changed e, clearList := n.clearList.dropEntry e }).setResult p .done).setEntry e
        (some { x with watchSet := withoutBit x.watchSet p }) := by
  simp only [unwatchRule, entryOfByte_eq_some.mpr he, hx, State.modEntry_eq hx]
  rfl

end

/-- Settles O21: the checks of the two rules in order, and what they write. -/
theorem watchAndUnwatch : Obligations.WatchAndUnwatch := by
  intro s p bits f n more
  refine ⟨fun h => ⟨fun hconfig => ?wrongPhase, fun hrun => ?watch⟩, fun h => ?unwatch⟩
  case wrongPhase =>
    exact exec_judged_result h (Command.rule_inConfig (c := .watch) (s := s.closeFrame p) (by simp) hconfig p _)
  case watch =>
    have hp : (s.closeFrame p).phase ≠ .config := by simp [hrun]
    have hnone (hn : 32 ≤ n.toNat ∨ ∃ e : EntryNo, n.toNat = e.val ∧ s.entry e = none) :
        exec (.watch p bits) s = .next (s.setPort p ((s.port p).afterFrame .noEntry)) :=
      exec_judged_result h (watchRule_noEntry hp (bind_entry_eq_none hn))
    refine ⟨fun hn => hnone (.inl hn), fun e he => ⟨fun hx => hnone (.inr ⟨e, he, hx⟩), fun x hx => ?_⟩⟩
    have hrule := watchRule_entry (p := p) (f := f.ending (s.port p) (n :: more)) hp he hx
    refine ⟨fun hno => exec_judged_result h (hrule.trans (if_neg fun hr => ?denied)),
      fun hread => ⟨_, (exec_judged h).trans ?done, hasBit_withBit _ _⟩⟩
    case denied =>
      obtain ⟨w, hw, hbit⟩ := Entry.readable_iff.mp hr
      rw [hno w hw] at hbit
      cases hbit
    case done =>
      rw [← State.setResult_closeFrame]
      exact congrArg _ (hrule.trans (if_pos (Entry.readable_iff.mpr hread)))
  case unwatch =>
    have hnone (hn : 32 ≤ n.toNat ∨ ∃ e : EntryNo, n.toNat = e.val ∧ s.entry e = none) :
        exec (.unwatch p bits) s = .next (s.setPort p ((s.port p).afterFrame .noEntry)) :=
      exec_judged_result h (unwatchRule_noEntry (bind_entry_eq_none hn))
    refine ⟨fun hn => hnone (.inl hn), fun e he => ⟨fun hx => hnone (.inr ⟨e, he, hx⟩), fun x hx => ?_⟩⟩
    have hrule := (exec_judged h).trans (congrArg Host.Outcome.next (unwatchRule_entry he hx))
    rw [State.modNotify_closeFrame] at hrule
    exact ⟨_, _, hrule, hasBit_withoutBit_ne _ _, hasBit_withoutBit_ne _ _⟩

end Sys2Proof.Machine

/-! SUPPORT. Start-up and restart: the state that a restart makes, what LOADER_START begins, and the statements about
them and about the state after reset. -/

namespace Sys2Proof.Machine

/-! ### The state a restart makes (R161) -/

@[simp] theorem State.port_restart (s : State) (cause : ResetCause) (high : Bool) (p : Port) :
    (s.restart cause high).port p = PortUnit.initial p cause (s.port p).frame.discard := by
  simp [State.restart, State.port]

@[simp] theorem State.entry_restart (s : State) (cause : ResetCause) (high : Bool) (e : EntryNo) :
    (s.restart cause high).entry e = none := by
  simp [State.restart, State.entry]

@[simp] theorem State.poll_restart (s : State) (cause : ResetCause) (high : Bool) (k : SlotNo) :
    (s.restart cause high).poll k = none := by
  simp [State.restart, State.poll, Scheduler.initial]

@[simp] theorem State.current_restart (s : State) (cause : ResetCause) (high : Bool) :
    (s.restart cause high).scheduler.current = none := rfl

/-- A discarded frame is in progress no more. -/
theorem FrameState.discard_ne_opened (x : FrameState) (f : Frame) : x.discard ≠ .opened f := by
  cases x <;> simp [FrameState.discard]

/-- A select line without a frame in progress is left as it is (log 19). -/
theorem FrameState.discard_of_ne_opened {x : FrameState} (h : ∀ f, x ≠ .opened f) : x.discard = x := by
  cases x with
  | opened f => exact absurd rfl (h f)
  | idle | discarded | ignored => rfl

/-- With no flag, an empty mask and no record, no event is pending (R148). -/
theorem PortUnit.eventPending_initial (p : Port) (cause : ResetCause) (x : FrameState) :
    (PortUnit.initial p cause x).eventPending = false := by
  simp [PortUnit.eventPending, PortUnit.initial, NotifyUnit.initial]

/-- So no NOTIFY line is asserted after a restart (R155). -/
theorem State.notifyAsserted_restart (s : State) (cause : ResetCause) (high : Bool) (n : Line) :
    (s.restart cause high).notifyAsserted n = false := by
  simp [State.notifyAsserted, PortUnit.eventPending_initial]

/-- A restart sets the whole part to the values of R161. -/
theorem State.isRestarted_restart (s : State) (cause : ResetCause) (high : Bool) :
    (s.restart cause high).isRestarted cause := by
  have lines (m : WireMoment) := Engine.lines_still (e := Engine.initial) rfl m
  refine ⟨rfl, rfl, rfl, fun p => ?port, s.entry_restart cause high, rfl, rfl, s.poll_restart cause high, rfl,
    (lines .rising).1, lines, s.notifyAsserted_restart cause high⟩
  rw [State.port_restart]
  exact ⟨rfl, rfl, rfl, rfl, rfl, rfl, rfl, rfl, rfl, rfl, rfl, FrameState.discard_ne_opened _⟩

/-- A restart discards the frames in progress and leaves the other select lines (R144, R162). -/
theorem State.frameCut_restart (s : State) (cause : ResetCause) (high : Bool) (q : Port) :
    s.frameCut (s.restart cause high) q := by
  refine ⟨fun f hf => ?_, fun hf => ?_⟩
  · rw [State.port_restart, hf]
    rfl
  · rw [State.port_restart]
    exact FrameState.discard_of_ne_opened hf

/-! ### RESTART (R131, R160) -/

/-- Above level 0 a RESTART is refused. -/
theorem restartRule_refused {s : State} {p : Port} (h : (s.port p).level ≠ 0) (f : FrameEnd) :
    restartRule p f s = s.setResult p .notPermitted := if_pos h

/-- At level 0 it restarts the whole part, RESETN being as it was. -/
theorem restartRule_restarts {s : State} {p : Port} (h : (s.port p).level = 0) (f : FrameEnd) :
    restartRule p f s = s.restart .restart s.resetn := if_neg (not_not_intro h)

/-- The frame end of a RESTART from a level-0 port: its own frame has ended, the others are cut. -/
theorem State.restart_closeFrame (s : State) (p : Port) (cause : ResetCause) (high : Bool) :
    (((s.closeFrame p).restart cause high).port p).frame = .idle
      ∧ ∀ q, q ≠ p → s.frameCut ((s.closeFrame p).restart cause high) q := by
  refine ⟨by simp [PortUnit.initial, FrameState.discard], fun q hq => ?_⟩
  have other : (s.closeFrame p).port q = s.port q := by simp [hq]
  rw [State.frameCut, ← other]
  exact (s.closeFrame p).frameCut_restart cause high q

/-- Settles O4: all three are the one restart, with its cause; RESTART's is of the state with its own frame closed. -/
theorem restartsSetWholePart : Obligations.RestartsSetWholePart := by
  refine fun s => ⟨fun high => ?powerOn, ?resetnFall, fun p bits f args h =>
    ⟨fun hlevel => ?restart, fun hlevel => ?refused⟩⟩
  case powerOn => exact ⟨_, rfl, s.isRestarted_restart .powerOn high, rfl, rfl, s.frameCut_restart .powerOn high⟩
  case resetnFall => exact ⟨_, rfl, s.isRestarted_restart .pin false, rfl, rfl, s.frameCut_restart .pin false⟩
  case restart =>
    have closed : ((s.closeFrame p).port p).level = 0 := by rwa [State.level_closeFrame]
    exact ⟨(s.closeFrame p).restart .restart s.resetn,
      (exec_judged h).trans (congrArg _ (restartRule_restarts closed (f.ending (s.port p) args))),
      State.isRestarted_restart _ .restart _, rfl, rfl, s.restart_closeFrame p .restart _⟩
  case refused =>
    have closed : ((s.closeFrame p).port p).level ≠ 0 := by rwa [State.level_closeFrame]
    exact exec_judged_result h (restartRule_refused closed (f.ending (s.port p) args))

/-! ### LOADER_START (R121, R163) -/

/-- LOADER_START acts in RESET_WAIT alone. -/
theorem exec_loaderStart (s : State) (a0 a1 : Bool) (bus : BusRead) :
    exec (.loaderStart a0 a1 bus) s = .next (if s.phase = .loading ∧ s.loader.step = .resetWait then
      (s.loaderStart a0 a1).busRuns bus.samples bus.mckLow else s) := rfl

/-- The address the straps give, as a number (R163). -/
theorem strapAddress_eq (a0 a1 : Bool) :
    strapAddress a0 a1 = BitVec.ofNat 7 (0x54 + (if a0 then 1 else 0) + (if a1 then 2 else 0)) := by
  cases a0 <;> cases a1 <;> rfl

/-- Settles O5: by the guard of RESET_WAIT, and by what a recovery that has just begun keeps of itself. -/
theorem loaderStartSamplesStraps : Obligations.LoaderStartSamplesStraps := by
  intro s a0 a1 bus
  refine ⟨fun h => ?outside, fun hphase hstep => ?inside⟩
  case outside => rw [exec_loaderStart, if_neg fun ⟨hphase, hstep⟩ => h.elim (· hphase) (· hstep)]
  case inside =>
    obtain ⟨hbus, htr, hcause⟩ := State.busRuns_recover (s := s.loaderStart a0 a1) (e := s.engine) rfl
      bus.samples bus.mckLow
    obtain ⟨-, hretry, hfault, hspeed⟩ := (s.loaderStart a0 a1).busRuns_frame bus.samples bus.mckLow
    refine ⟨_, ?_, hbus, htr, hcause, hretry, hfault, hspeed⟩
    rw [exec_loaderStart, if_pos ⟨hphase, hstep⟩, ← strapAddress_eq]
    rfl

/-! ### The state after reset (R160, R161) -/

/-- A power-on with RESETN high finds the state after reset as it leaves it. -/
theorem State.restart_reset : State.reset.restart .powerOn true = State.reset := by
  have frame (p : Port) : (State.reset.port p).frame = .idle := by simp [State.reset, State.port, PortUnit.initial]
  simp only [State.restart, frame]
  rfl

/-- Settles O3: the state after reset is what a restart makes of it. -/
theorem resetStateIsPowerOn : Obligations.ResetStateIsPowerOn := by
  have restarted := State.reset.isRestarted_restart .powerOn true
  rw [State.restart_reset] at restarted
  exact ⟨restarted, rfl, rfl, fun p => by simp [State.reset, State.port, PortUnit.initial],
    congrArg _ State.restart_reset⟩

/-! ### The invariants after a restart -/

section
variable (s : State) (cause : ResetCause) (high : Bool)

/-- A restart leaves nothing queued, reserved or parked (R47, R49, R102). -/
theorem State.quietOutsideRun_restart : (s.restart cause high).quietOutsideRun :=
  fun _ => ⟨fun p => by simp [PortUnit.initial, NotifyUnit.initial], by simp, rfl, rfl, by simp⟩

/-- A restart is in LOADING, its loader in RESET_WAIT, every port with its restart settings (R123, R158, R159). -/
theorem State.loadingIsBare_restart : (s.restart cause high).loadingIsBare := by
  refine ⟨⟨fun _ => by simp [State.restart, Loader.initial], fun _ => rfl⟩, fun _ => ⟨by simp, fun p => ?_⟩⟩
  rw [State.port_restart]
  exact ⟨rfl, rfl, rfl, rfl, rfl⟩

/-- A restart makes every port ACTIVE, without a hold origin (R123). -/
theorem State.idlePortsBare_restart : (s.restart cause high).idlePortsBare := by
  intro p
  rw [State.port_restart]
  simp [PortUnit.initial]

theorem State.parked_restart (p : Port) : (s.restart cause high).parked p = 0 := by
  simp [State.parked_eq_zero]

/-- A restart leaves no credit reserved and none due (R37). -/
theorem State.creditsBalance_restart : (s.restart cause high).creditsBalance := by
  intro p
  simp [State.creditsDue, State.parked_restart, PortUnit.initial]

/-- A restart leaves no request outstanding (R29). -/
theorem State.tagsDiffer_restart : (s.restart cause high).tagsDiffer := by
  intro p
  simp [State.outstandingTags, PortUnit.initial]

/-- A restart leaves the directory empty, so that no entry's lock fields can disagree (R68). -/
theorem State.locksSound_restart : (s.restart cause high).locksSound := by
  intro e x h
  simp at h

/-- Nor can an entry be invalid or two share an address (R3, R8). -/
theorem State.directorySound_restart : (s.restart cause high).directorySound := by
  simp [State.directorySound]

end

/-- Settles O52: every restart, and so a power-on, meets each invariant. -/
theorem invariantsHoldAtReset : Obligations.InvariantsHoldAtReset := by
  unfold Obligations.InvariantsHoldAtReset
  rw [← State.restart_reset]
  exact ⟨State.busSound_restart _ _ _, State.quietOutsideRun_restart _ _ _, State.loadingIsBare_restart _ _ _,
    State.idlePortsBare_restart _ _ _, State.someoneCanRelease_restart _ _ _, State.creditsBalance_restart _ _ _,
    State.tagsDiffer_restart _ _ _, State.locksSound_restart _ _ _, State.directorySound_restart _ _ _⟩

end Sys2Proof.Machine

/-! SUPPORT. The configuration list (R164 to R167): the walk case by case, the record that stands at a marker, each
check of VALIDATING in words, and the statement about the order of the load faults. -/

namespace Sys2Proof.Machine

/-! ### The walk (R164) -/

/-- The bytes themselves bound the records, so that one more is no change. -/
theorem walkFrom_length (staged : List Byte) (pos : Nat) :
    walkFrom staged staged.length pos = walkFrom staged (staged.length + 1) pos :=
  (walkFrom_fuel staged staged.length pos (Nat.le_add_right _ _)).symm

section
variable {staged : List Byte} {pos : Nat}

/-- The walk waits at a byte that is not yet staged. -/
theorem walkFrom_unstaged (h : staged[pos]? = none) : walkFrom staged staged.length pos = ([], pos, .waits) := by
  rw [walkFrom_length, walkFrom, h]

/-- The end marker ends it once the checksum is staged. -/
theorem walkFrom_endMarker (h : staged[pos]? = some 0xFF) :
    walkFrom staged staged.length pos = ([], pos, if pos + 1 < staged.length then .ended else .waits) := by
  rw [walkFrom_length, walkFrom, h]
  simp

/-- Any byte that is no marker stops it. -/
theorem walkFrom_badMarker {m : Byte} (h : staged[pos]? = some m) (hend : m ≠ 0xFF) (hrec : m ≠ 0xE0) :
    walkFrom staged staged.length pos = ([], pos, .badMarker) := by
  rw [walkFrom_length, walkFrom, h]
  simp only [hend, hrec, if_false]

/-- At a record's marker it waits for the window count. -/
theorem walkFrom_noCount (h : staged[pos]? = some 0xE0) (hn : staged[pos + 5]? = none) :
    walkFrom staged staged.length pos = ([], pos, .waits) := by
  rw [walkFrom_length, walkFrom, h]
  simp [hn]

/-- A count of 0 or above 4 stops it. -/
theorem walkFrom_badCount (h : staged[pos]? = some 0xE0) {n : Byte} (hn : staged[pos + 5]? = some n)
    (hbad : n.toNat = 0 ∨ 4 < n.toNat) : walkFrom staged staged.length pos = ([], pos, .badCount) := by
  rw [walkFrom_length, walkFrom, h]
  simp [hn, hbad]

/-- It waits for the last byte of the record. -/
theorem walkFrom_partial (h : staged[pos]? = some 0xE0) {n : Byte} (hn : staged[pos + 5]? = some n)
    (hgood : ¬ (n.toNat = 0 ∨ 4 < n.toNat)) (hlen : staged.length < pos + 6 + 5 * n.toNat) :
    walkFrom staged staged.length pos = ([], pos, .waits) := by
  rw [walkFrom_length, walkFrom, h]
  simp [hn, hgood, Nat.not_le.mpr hlen]

/-- It yields a record that is there and goes on behind it. -/
theorem walkFrom_record (h : staged[pos]? = some 0xE0) {n : Byte} (hn : staged[pos + 5]? = some n)
    (hgood : ¬ (n.toNat = 0 ∨ 4 < n.toNat)) (hlen : pos + 6 + 5 * n.toNat ≤ staged.length) :
    walkFrom staged staged.length pos =
      ((parseRecord (staged.drop pos)).toList ++ (walkFrom staged staged.length (pos + 6 + 5 * n.toNat)).1,
        (walkFrom staged staged.length (pos + 6 + 5 * n.toNat)).2) := by
  rw [walkFrom_length, walkFrom, h]
  simp [hn, hgood, hlen]

end

/-! ### The record that stands at a marker (sections 10.5, 10.6) -/

/-- The window whose 5 bytes are staged from `pos` on. -/
def stagedWindow (staged : List Byte) (pos : Nat) : Window :=
  { first := wordOf (staged.getD pos 0) (staged.getD (pos + 1) 0),
    last := wordOf (staged.getD (pos + 2) 0) (staged.getD (pos + 3) 0),
    readSet := (staged.getD (pos + 4) 0).extractLsb' 0 4, writeSet := (staged.getD (pos + 4) 0).extractLsb' 4 4 }

/-- A number of two bytes, high byte first (R172). -/
theorem toNat_wordOf (hi lo : Byte) : (wordOf hi lo).toNat = 256 * hi.toNat + lo.toNat := by
  rw [wordOf, BitVec.toNat_append, ← Nat.shiftLeft_add_eq_or_of_lt lo.isLt, Nat.shiftLeft_eq]
  omega

/-- A byte that is staged, and those behind it. -/
theorem drop_eq_getD_cons {l : List Byte} {i : Nat} (h : i < l.length) : l.drop i = l.getD i 0 :: l.drop (i + 1) := by
  rw [List.drop_eq_getElem_cons h, List.getD_eq_getElem l 0 h]

/-- Windows that are staged whole are read one after the other. -/
theorem parseWindows_drop {staged : List Byte} {n pos : Nat} (h : pos + 5 * n ≤ staged.length) :
    parseWindows n (staged.drop pos) = (List.range n).map fun k => stagedWindow staged (pos + 5 * k) := by
  induction n generalizing pos with
  | zero => simp [parseWindows]
  | succ n ih =>
    rw [drop_eq_getD_cons (by omega), drop_eq_getD_cons (by omega), drop_eq_getD_cons (by omega),
      drop_eq_getD_cons (by omega), drop_eq_getD_cons (by omega), parseWindows, ih (by omega), List.range_succ_eq_map,
      List.map_cons, List.map_map]
    congr 1
    refine List.map_congr_left fun k _ => ?_
    show stagedWindow _ _ = stagedWindow _ _
    congr 1
    omega

/-- The record of `n` windows whose marker is staged at `pos`. -/
def stagedRecord (staged : List Byte) (pos n : Nat) : RawRecord :=
  { number := staged.getD (pos + 1) 0, address := staged.getD (pos + 2) 0, type := staged.getD (pos + 3) 0,
    lockLevel := staged.getD (pos + 4) 0,
    windows := (List.range n).map fun k => stagedWindow staged (pos + 6 + 5 * k) }

/-- A record that is staged whole is read as it stands. -/
theorem parseRecord_drop {staged : List Byte} {pos : Nat} {n : Byte} (hn : staged[pos + 5]? = some n)
    (hlen : pos + 6 + 5 * n.toNat ≤ staged.length) :
    parseRecord (staged.drop pos) = some (stagedRecord staged pos n.toNat) := by
  have hcount : staged.getD (pos + 5) 0 = n := by simp [hn]
  rw [drop_eq_getD_cons (by omega), drop_eq_getD_cons (by omega), drop_eq_getD_cons (by omega),
    drop_eq_getD_cons (by omega), drop_eq_getD_cons (by omega), drop_eq_getD_cons (by omega), parseRecord, hcount,
    parseWindows_drop hlen]
  rfl

/-- It has the fields that sections 10.5 and 10.6 give it. -/
theorem stagedRecord_standsAt (staged : List Byte) (pos n : Nat) :
    (stagedRecord staged pos n).standsAt staged pos n := by
  refine ⟨rfl, rfl, rfl, rfl, by simp [stagedRecord], fun k w hw => ?_⟩
  obtain ⟨-, rfl⟩ : k < n ∧ stagedWindow staged (pos + 6 + 5 * k) = w := by
    simpa [stagedRecord, List.getElem?_eq_some_iff] using hw
  have next (j : Nat) : pos + 6 + 5 * k + j = pos + (6 + j) + 5 * k := by omega
  simp only [stagedWindow, toNat_wordOf, next]
  exact ⟨trivial, trivial, fun p => ⟨by simp [hasBit], by simp [hasBit]⟩⟩

/-! ### The conditions of R8 -/

/-- Windows that ascend, each against the one before it (R6). -/
theorem windowsAscend_iff : ∀ {ws : List Window}, windowsAscend ws = true ↔
    ∀ k w v, ws[k]? = some w → ws[k + 1]? = some v → w.last.toNat < v.first.toNat
  | [] => by simp [windowsAscend]
  | [w] => by simp [windowsAscend]
  | w :: v :: rest => by
    rw [windowsAscend, Bool.and_eq_true, decide_eq_true_eq, windowsAscend_iff]
    refine ⟨fun ⟨hwv, hrest⟩ k x y hx hy => ?_, fun h => ⟨h 0 w v rfl rfl, fun k => h (k + 1)⟩⟩
    cases k with
    | zero => cases hx; cases hy; exact hwv
    | succ k => exact hrest k x y hx hy

/-- A byte that names no type is above 2 (section 10.7). -/
theorem typeOfByte_eq_none {b : Byte} : typeOfByte b = none ↔ 2 < b.toNat := by
  unfold typeOfByte
  split
  next h => simp [h]
  next h0 =>
    split
    next h => simp [h]
    next h1 =>
      split
      next h => simp [h]
      next h2 => simp; bv_omega

/-- The window conditions of R8 for a type, in words. -/
theorem windowsValid_iff {t : EntryType} {ws : List Window} : windowsValid t ws = true ↔
    1 ≤ ws.length ∧ ws.length ≤ 4 ∧ (t = .byte → ws.length = 1)
      ∧ (∀ w ∈ ws, w.first.toNat ≤ w.last.toNat ∧ w.last.toNat ≤ lastIndex t)
      ∧ ∀ k w v, ws[k]? = some w → ws[k + 1]? = some v → w.last.toNat < v.first.toNat := by
  simp only [windowsValid, Bool.and_eq_true, Bool.or_eq_true, List.all_eq_true, decide_eq_true_eq, bne_iff_ne,
    windowsAscend_iff, ne_eq, ← imp_iff_not_or, and_assoc]
  exact ⟨fun ⟨hmin, hmax, hrange, hascend, hbyte⟩ => ⟨hmin, hmax, hbyte, hrange, hascend⟩,
    fun ⟨hmin, hmax, hbyte, hrange, hascend⟩ => ⟨hmin, hmax, hrange, hascend, hbyte⟩⟩

/-- A record is valid exactly when it meets the conditions of R8. -/
theorem RawRecord.valid_iff (r : RawRecord) : r.valid = true ↔ r.meetsR8 := by
  unfold RawRecord.valid
  cases ht : typeOfByte r.type with
  | none =>
    have := typeOfByte_eq_none.mp ht
    simp [RawRecord.meetsR8]
    omega
  | some t =>
    have hcode := typeOfByte_eq_some ht
    simp only [Bool.and_eq_true, decide_eq_true_eq, windowsValid_iff, RawRecord.meetsR8, hcode]
    cases t with
    | byte | indexed8 => simp [typeCode, lastIndex, and_assoc]
    | indexed16 =>
      have wide (w : Window) : w.last.toNat ≤ 65535 := Nat.le_of_lt_succ w.last.isLt
      simp [typeCode, lastIndex, wide, and_assoc]

/-! ### The checks of VALIDATING (R167, R174) -/

/-- Some bit of a field of a byte is set. -/
theorem extractLsb'_ne_zero {b : Byte} {start n : Nat} :
    b.extractLsb' start n ≠ 0#n ↔ ∃ i : Fin n, b.getLsbD (start + i.val) = true := by
  rw [← not_iff_not, not_not, BitVec.eq_of_getLsbD_eq_iff]
  simp +contextual [Fin.forall_iff]

/-- A port byte marks a port enabled by its lowest bit (section 10.6). -/
theorem decodePortByte_enabled (b : Byte) : (decodePortByte b).enabled = b.getLsbD 0 := rfl

/-- A port byte marks level 0 exactly when its level field holds 0 (section 10.6). -/
theorem decodePortByte_level (b : Byte) : (decodePortByte b).level = 0 ↔ b.extractLsb' 1 2 = 0#2 :=
  BitVec.toFin_inj (x := b.extractLsb' 1 2) (y := 0#2)

/-- A bad header (section 10.6): a bit that must be 0, or no port that is both enabled and at level 0. -/
theorem headerBad_iff {staged : List Byte} : headerBad staged = true ↔
    (∃ i : Fin 6, (staged.getD 3 0).getLsbD (2 + i.val) = true)
      ∨ (∃ p : Port, (staged.getD (4 + p.val) 0).getLsbD 6 = true ∨ (staged.getD (4 + p.val) 0).getLsbD 7 = true)
      ∨ ∀ p : Port, (staged.getD (4 + p.val) 0).getLsbD 0 = false
          ∨ (staged.getD (4 + p.val) 0).extractLsb' 1 2 ≠ 0#2 := by
  unfold headerBad
  simp only [Bool.or_eq_true, bne_iff_ne, or_assoc, List.any_eq_true, List.mem_finRange, true_and]
  refine or_congr extractLsb'_ne_zero (or_congr (exists_congr fun p => ?_) ?_)
  · rw [extractLsb'_ne_zero, Fin.exists_fin_two]
    rfl
  · simp [stagedPortByte, decodePortByte_enabled, decodePortByte_level, imp_iff_not_or]

/-- The entry numbers are below 32 and rise (R167, ORDER). -/
theorem numbersAscend_iff : ∀ {l : List RawRecord}, numbersAscend l = true ↔
    (∀ r ∈ l, r.number.toNat < 32) ∧ (l.map fun r => r.number.toNat).Pairwise (· < ·)
  | [] => by simp [numbersAscend]
  | [r] => by simp [numbersAscend]
  | r :: q :: rest => by
    refine ⟨fun h => ⟨?bounded, List.pairwise_map.mpr (numbersAscend_pairwise h)⟩, fun ⟨hlt, hrise⟩ => ?ascend⟩
    case bounded =>
      simp only [numbersAscend, Bool.and_eq_true, decide_eq_true_eq] at h
      obtain ⟨⟨hr, -⟩, hrest⟩ := h
      exact List.forall_mem_cons.mpr ⟨hr, (numbersAscend_iff.mp hrest).1⟩
    case ascend =>
      obtain ⟨hr, hrest⟩ := List.forall_mem_cons.mp hlt
      obtain ⟨hrq, hrises⟩ := List.pairwise_cons.mp hrise
      simp only [numbersAscend, Bool.and_eq_true, decide_eq_true_eq]
      exact ⟨⟨hr, hrq _ (by simp)⟩, numbersAscend_iff.mpr ⟨hrest, hrises⟩⟩

/-- Two records carry one bus address (R167, DUP_ADDRESS). -/
theorem repeatsAddress_iff {l : List RawRecord} : repeatsAddress l = true ↔ ¬ (l.map RawRecord.address).Nodup := by
  induction l with
  | nil => simp [repeatsAddress]
  | cons r rest ih =>
    simp only [repeatsAddress, Bool.or_eq_true, ih, List.map_cons, List.nodup_cons, not_and_or, not_not]
    simp

/-- The bytes summed modulo 256 are the numbers summed, modulo 256. -/
theorem toNat_foldl_add (bs : List Byte) (b : Byte) :
    (bs.foldl (· + ·) b).toNat = (b.toNat + (bs.map BitVec.toNat).sum) % 256 := by
  induction bs generalizing b with
  | nil => simp [Nat.mod_eq_of_lt b.isLt]
  | cons x xs ih =>
    rw [List.foldl_cons, ih, BitVec.toNat_add, List.map_cons, List.sum_cons]
    omega

/-- The sum of bytes, taken as numbers (R166). -/
theorem checksumOf_eq_zero {bs : List Byte} : checksumOf bs = 0 ↔ (bs.map BitVec.toNat).sum % 256 = 0 := by
  rw [← BitVec.toNat_inj, checksumOf, toNat_foldl_add]
  simp

/-! ### The order of the load faults (R167, R174) -/

section
variable {staged : List Byte}

/-- The signature is judged first. -/
theorem validate_badSignature (h : staged.take 2 ≠ [0x46, 0x42]) : validate staged = some .badSignature := if_pos h

/-- Then the version. -/
theorem validate_badVersion (hs : staged.take 2 = [0x46, 0x42]) (h : staged.getD 2 0 ≠ 0x01) :
    validate staged = some .badVersion := (if_neg (not_not_intro hs)).trans (if_pos h)

/-- Then the header. -/
theorem validate_badHeader (hs : staged.take 2 = [0x46, 0x42]) (hv : staged.getD 2 0 = 0x01)
    (h : headerBad staged = true) : validate staged = some .badHeader :=
  (if_neg (not_not_intro hs)).trans ((if_neg (not_not_intro hv)).trans (if_pos h))

/-- Behind a good header the records are judged, then the walk's end, then the checksum. -/
theorem validate_goodHeader (hs : staged.take 2 = [0x46, 0x42]) (hv : staged.getD 2 0 = 0x01)
    (hh : headerBad staged = false) {recs : List RawRecord} {pos : Nat} {stop : WalkStop}
    (hw : walkFrom staged staged.length 8 = (recs, pos, stop)) :
    validate staged =
      if stop = .badMarker ∨ stop = .badCount ∨ ∃ r ∈ recs, r.valid = false then some .badRecord
      else if numbersAscend recs = false then some .order
      else if repeatsAddress recs = true then some .dupAddress
      else if stop = .waits then some .tooLong
      else if checksumOf (staged.take (pos + 2)) ≠ 0 then some .checksum
      else none := by
  refine (if_neg (not_not_intro hs)).trans ((if_neg (not_not_intro hv)).trans ((if_neg (by simp [hh])).trans ?_))
  simp [hw]

/-- A list that passes has a good signature, version and header. -/
theorem validate_eq_none_header (h : validate staged = none) :
    staged.take 2 = [0x46, 0x42] ∧ staged.getD 2 0 = 0x01 ∧ headerBad staged = false := by
  have hs : staged.take 2 = [0x46, 0x42] := by
    by_contra hs
    simp [validate_badSignature hs] at h
  have hv : staged.getD 2 0 = 0x01 := by
    by_contra hv
    simp [validate_badVersion hs hv] at h
  refine ⟨hs, hv, Bool.eq_false_iff.mpr fun hh => ?_⟩
  simp [validate_badHeader hs hv hh] at h

/-- A list that passes repeats no address and sums to 0. -/
theorem validate_eq_none_records (h : validate staged = none) :
    repeatsAddress (walkFrom staged staged.length 8).1 = false
      ∧ checksumOf (staged.take ((walkFrom staged staged.length 8).2.1 + 2)) = 0 := by
  obtain ⟨hs, hv, hh⟩ := validate_eq_none_header h
  rw [validate_goodHeader hs hv hh rfl] at h
  simp only [ite_eq_iff, reduceCtorEq, and_false, false_or] at h
  obtain ⟨-, -, hrep, -, hsum⟩ := h
  exact ⟨by simpa using hrep, by simpa using hsum⟩

end

/-! ### The statement -/

/-- Settles O47: each check of VALIDATING says what the statement says of it, in the order of its branches; the walk
case by case. -/
theorem validationRanksFaults : Obligations.ValidationRanksFaults := by
  refine ⟨RawRecord.valid_iff, fun staged badHeader hbad => ?_⟩
  rw [← headerBad_iff] at hbad
  refine ⟨validate_badSignature, validate_badVersion, fun hs hv hh => validate_badHeader hs hv (hbad.mp hh),
    fun hs hv hh recs pos stop badRecord badOrder twice badSum hw hrecord horder htwice hsum => ?ranks,
    fun h => ?passes, fun pos walk hwalk => ?walk⟩
  case ranks =>
    have rank := validate_goodHeader hs hv (Bool.eq_false_iff.mpr (mt hbad.mpr hh)) hw
    have ascend : numbersAscend recs = false ↔ badOrder := by
      rw [horder, ← Bool.not_eq_true, numbersAscend_iff, not_and_or]
      simp
    rw [← repeatsAddress_iff] at htwice
    rw [ne_eq, ← checksumOf_eq_zero] at hsum
    rw [hrecord, ← ascend, htwice, hsum, rank]
    exact ⟨fun h => if_pos h,
      fun hrec h => by rw [if_neg hrec, if_pos h],
      fun hrec hord h => by rw [if_neg hrec, if_neg hord, if_pos h],
      fun hrec hord htwo h => by rw [if_neg hrec, if_neg hord, if_neg htwo, if_pos h],
      fun hrec hord htwo hend h => by rw [if_neg hrec, if_neg hord, if_neg htwo, if_neg hend, if_pos h],
      fun hrec hord htwo hend h => by rw [if_neg hrec, if_neg hord, if_neg htwo, if_neg hend, if_neg h]⟩
  case passes =>
    obtain ⟨-, hvalid, hascend⟩ := validate_eq_none h
    obtain ⟨hrep, hsum⟩ := validate_eq_none_records h
    obtain ⟨hlt, -⟩ := numbersAscend_iff.mp hascend
    refine ⟨hsum, ?_, fun r hr => ⟨hvalid r hr, hlt r hr⟩⟩
    by_contra hdup
    simp [repeatsAddress_iff.mpr hdup] at hrep
  case walk =>
    simp only [hwalk]
    refine ⟨walkFrom_unstaged, walkFrom_endMarker, fun hm => ⟨walkFrom_noCount hm, fun n hn =>
      ⟨walkFrom_badCount hm hn, fun h1 h4 => ?_⟩⟩, fun m => walkFrom_badMarker⟩
    have hgood : ¬ (n.toNat = 0 ∨ 4 < n.toNat) := by omega
    refine ⟨fun hlen => walkFrom_partial hm hn hgood (by omega), fun hlen =>
      ⟨stagedRecord staged pos n.toNat, stagedRecord_standsAt staged pos n.toNat, ?_⟩⟩
    rw [walkFrom_record hm hn hgood (by omega), parseRecord_drop hn (by omega), Nat.add_assoc]
    rfl

end Sys2Proof.Machine

/-! SUPPORT. The queue of commands, which no operation of the block touches, and the statements that a step takes the
front command and that every command answers a next state and leaves the queue alone. -/

namespace Sys2Proof.Machine

section
variable (s : State)

/-! ### The queue through the shared operations -/

@[simp] theorem State.pending_raise (p : Port) (f : Flag) : (s.raise p f).pending = s.pending := rfl
@[simp] theorem State.pending_raiseAll (f : Flag) : (s.raiseAll f).pending = s.pending := rfl
@[simp] theorem State.pending_raisePeer (p : Port) : (s.raisePeer p).pending = s.pending := rfl
@[simp] theorem State.pending_judgeHead (p : Port) : (s.judgeHead p).pending = s.pending := rfl
@[simp] theorem State.pending_closeFrame (p : Port) : (s.closeFrame p).pending = s.pending := rfl
@[simp] theorem State.pending_reloadIfOwner (e : EntryNo) (p : Port) : (s.reloadIfOwner e p).pending = s.pending := rfl
@[simp] theorem State.pending_busRuns (l : List Bool) (m : Bool) : (s.busRuns l m).pending = s.pending := rfl

@[simp] theorem State.pending_markLockLost (e : EntryNo) (p : Port) : (s.markLockLost e p).pending = s.pending := by
  rw [State.markLockLost_eq, State.pending_setCurrent]

@[simp] theorem State.pending_breakLock (p q : Port) (e : EntryNo) (lease : Nat) :
    (s.breakLock p q e lease).pending = s.pending := by simp [State.breakLock]

@[simp] theorem State.pending_relayHealth (e : EntryNo) (out : AddressOutcome) :
    (s.relayHealth e out).pending = s.pending := by rw [State.relayHealth_eq]

@[simp] theorem State.pending_writeNotice (e : EntryNo) (p : Port) : (s.writeNotice e p).pending = s.pending := by
  rw [State.writeNotice_eq]

/-- A release frees the entry, or passes it on and takes the heir's head (R76). -/
@[simp] theorem State.pending_release (e : EntryNo) (reason : ReleaseReason) :
    (s.release e reason).1.pending = s.pending := by
  unfold State.release
  simp only
  split
  · rfl
  · split
    · rfl
    · split <;> rfl

@[simp] theorem State.pending_releaseOwned (p : Port) (l : List EntryNo) (x : State × List (Port × Completion)) :
    (State.releaseOwned p l x).1.pending = x.1.pending := by
  induction l generalizing x with
  | nil => rfl
  | cons e es ih =>
    unfold State.releaseOwned
    split <;> simp [ih]

@[simp] theorem State.pending_holdPort (p : Port) (o : HoldOrigin) : (s.holdPort p o).pending = s.pending := by
  simp [State.holdPort]

/-! ### Frames -/

@[simp] theorem State.pending_submit (p : Port) (args : List Byte) : (s.submit p args).pending = s.pending := by
  unfold State.submit
  split
  · rfl
  · split
    · rfl
    · split
      · rfl
      · split <;> rfl

@[simp] theorem State.pending_cancelPoll (k : SlotNo) : (s.cancelPoll k).pending = s.pending := by
  unfold State.cancelPoll
  split
  · rfl
  · split <;> rfl

theorem pending_fetchRule (p : Port) (f : FrameEnd) : (fetchRule p f s).pending = s.pending := by
  unfold fetchRule
  split
  · rfl
  · split
    · rfl
    · split
      · split <;> rfl
      · rfl

theorem pending_cancelRule (p : Port) (f : FrameEnd) : (cancelRule p f s).pending = s.pending := by
  unfold cancelRule
  simp only
  split
  · rfl
  · split
    · rfl
    · split
      · simp
      · split <;> rfl

theorem pending_watchRule (p : Port) (f : FrameEnd) : (watchRule p f s).pending = s.pending := by
  unfold watchRule
  split
  · rfl
  · split
    · rfl
    · split
      · rfl
      · split <;> rfl

theorem pending_unwatchRule (p : Port) (f : FrameEnd) : (unwatchRule p f s).pending = s.pending := by
  unfold unwatchRule
  split
  · rfl
  · split <;> rfl

theorem pending_renewRule (p : Port) (f : FrameEnd) : (renewRule p f s).pending = s.pending := by
  unfold renewRule
  split
  · rfl
  · split
    · rfl
    · split <;> rfl

theorem pending_dirWriteRule (p : Port) (f : FrameEnd) : (dirWriteRule p f s).pending = s.pending := by
  unfold dirWriteRule
  cases entryOfByte (f.arg 1) with
  | none => simp [apply_ite State.pending]
  | some e => cases parseRecord f.args <;> simp [apply_ite State.pending]

theorem pending_dirClearRule (p : Port) (f : FrameEnd) : (dirClearRule p f s).pending = s.pending := by
  unfold dirClearRule
  split
  · rfl
  · split
    · rfl
    · split <;> rfl

theorem pending_eventsRule (p : Port) (f : FrameEnd) : (eventsRule p f s).pending = s.pending := by
  rw [eventsRule_eq, State.pending_setResult, State.pending_modPort]

theorem pending_changesRule (p : Port) (f : FrameEnd) : (changesRule p f s).pending = s.pending := by
  by_cases h : s.phase = .config
  · rw [changesRule, if_pos h, State.pending_setResult]
  · rw [changesRule_eq h, State.pending_setResult, State.pending_modPort]

theorem pending_holdRule (p : Port) (f : FrameEnd) : (holdRule p f s).pending = s.pending := by
  unfold holdRule
  cases portOfByte (f.arg 0) <;> simp [apply_ite State.pending]

theorem pending_releaseRule (p : Port) (f : FrameEnd) : (releaseRule p f s).pending = s.pending := by
  unfold releaseRule
  cases portOfByte (f.arg 0) <;> simp [apply_ite State.pending, State.releasePort]

/-- No command's own rule touches the queue. -/
theorem Command.pending_rule (c : Command) (p : Port) (f : FrameEnd) : (c.rule p f s).pending = s.pending := by
  match c with
  | .status | .ackEvents | .setMask | .dirRead => rfl
  | .submit => simp [Command.rule, submitRule, apply_ite State.pending]
  | .fetch => exact pending_fetchRule s p f
  | .cancel => exact pending_cancelRule s p f
  | .events => exact pending_eventsRule s p f
  | .changes => exact pending_changesRule s p f
  | .watch => exact pending_watchRule s p f
  | .unwatch => exact pending_unwatchRule s p f
  | .renew => exact pending_renewRule s p f
  | .dirWrite => exact pending_dirWriteRule s p f
  | .dirClear => exact pending_dirClearRule s p f
  | .seal => simp [Command.rule, sealRule, apply_ite State.pending]
  | .hold => exact pending_holdRule s p f
  | .release => exact pending_releaseRule s p f
  | .restart => simp [Command.rule, restartRule, State.restart, apply_ite State.pending]

@[simp] theorem State.pending_unjudgedEnd (p : Port) : (s.unjudgedEnd p).pending = s.pending := by
  simp [State.unjudgedEnd, apply_ite State.pending]

/-- A frame end touches the queue neither in the port-level handling nor in the command's own rule. -/
theorem State.pending_frameEnd (c : Command) (p : Port) (bits : List Bool) :
    (s.frameEnd p c bits (c.rule p)).pending = s.pending :=
  s.frameEnd_cases (P := fun t => t.pending = s.pending) p c bits (c.rule p) rfl (s.pending_unjudgedEnd p)
    (fun _ => rfl) fun f _ _ =>
      (c.pending_rule (s.closeFrame p) p f).trans (s.pending_closeFrame p)

/-! ### Bus work -/

@[simp] theorem State.pending_enterFaulted : s.enterFaulted.pending = s.pending := by
  simp [State.enterFaulted, apply_ite State.pending]

@[simp] theorem State.pending_engineAfter (st : BusStatus) (startFailed : Bool) :
    (s.engineAfter st startFailed).pending = s.pending := by
  simp [State.engineAfter, apply_ite State.pending]

@[simp] theorem State.pending_loadFault (f : LoadFault) : (s.loadFault f).pending = s.pending := rfl

@[simp] theorem State.pending_startLoaderRead : s.startLoaderRead.pending = s.pending := by
  unfold State.startLoaderRead
  split <;> rfl

@[simp] theorem State.pending_finishLoad : s.finishLoad.pending = s.pending := by
  unfold State.finishLoad
  split <;> rfl

/-- The loader stages the bytes read, and reads on or ends the load (R164, R165). -/
@[simp] theorem State.pending_loaderReport (r : Report) : (s.loaderReport r).pending = s.pending := by
  unfold State.loaderReport
  cases r.status with
  | ok => simp [State.stage, apply_ite State.pending]
  | nackAddr | nackData => rfl
  | stuck => simp [apply_ite State.pending]

@[simp] theorem State.pending_slotReport (k : SlotNo) (r : Report) : (s.slotReport k r).1.pending = s.pending := by
  unfold State.slotReport
  split
  · rfl
  · split <;> rfl

/-- The scheduler takes a report for a port position or for a poll iteration (R64, R66). -/
@[simp] theorem State.pending_schedulerReport (r : Report) : (s.schedulerReport r).pending = s.pending := by
  unfold State.schedulerReport
  cases s.scheduler.current with
  | none => simp
  | some c =>
    cases hc : c.slot with
    | none => simp [hc, State.requestReport, apply_ite State.pending]
    | some k => simp [hc, State.iterationReport, apply_ite State.pending]

@[simp] theorem State.pending_endTransaction (t : Transaction) (st : BusStatus) (startFailed : Bool) :
    (s.endTransaction t st startFailed).pending = s.pending := by
  unfold State.endTransaction
  cases t.requester <;> simp

/-- The end of a recovery leaves the bus to its waiting transaction, to the loader or to the next grant, or ends the
load (R117 to R121, R163, R165). -/
@[simp] theorem State.pending_recoveryEnds (c : RecoveryCause) (success : Bool) :
    (s.recoveryEnds c success).pending = s.pending := by
  unfold State.recoveryEnds
  cases c with
  | blockedStart => cases s.engine.transaction <;> simp [apply_ite State.pending]
  | afterStuck | retry | startUp => simp [apply_ite State.pending]

@[simp] theorem State.pending_stretchLimit : s.stretchLimit.pending = s.pending := by
  unfold State.stretchLimit
  split
  · simp
  · split
    · rfl
    · simp [apply_ite State.pending]

/-- A report step touches the queue only where what takes the outcome does. -/
theorem State.pending_afterReading {α : Type} (bus : BusRead) (ended : State → Option α) {act : α → State → State}
    (hact : ∀ x (u : State), (act x u).pending = u.pending) : (s.afterReading bus ended act).pending = s.pending := by
  unfold State.afterReading
  simp only
  split
  · rfl
  · simp [hact]

@[simp] theorem State.pending_grantPort (p : Port) (r : Request) (e : EntryNo) (en : Entry) :
    (s.grantPort p r e en).pending = s.pending := by simp [State.grantPort]

@[simp] theorem State.pending_grantPoll (k : SlotNo) (q : Poll) (en : Entry) :
    (s.grantPoll k q en).pending = s.pending := by simp [State.grantPoll]

/-- A grant takes a head or a slot (R62). -/
@[simp] theorem State.pending_grantAt (pos : Position) : (s.grantAt pos).pending = s.pending := by
  cases pos with
  | port p =>
    simp only [State.grantAt]
    split <;> simp
  | poll =>
    simp only [State.grantAt]
    split
    · rfl
    · split
      · rfl
      · split <;> simp

end

/-! ### The statements -/

/-- Settles O1: the two branches of `step`. -/
theorem stepTakesFrontCommand : Obligations.StepTakesFrontCommand := by
  refine ⟨fun c rest s h => ?front, fun s h => ?idle⟩
  case front => simp only [step, h]
  case idle => simp only [step, h]

/-- Every command answers a next state in every state. -/
theorem exec_answers_next (c : Instr) (s : State) : ∃ t, exec c s = .next t := by
  cases c <;> exact ⟨_, rfl⟩

/-- The state that a command answers has the queue of the state it was given. -/
theorem State.pending_exec {c : Instr} {s t : State} (h : exec c s = .next t) : t.pending = s.pending := by
  have hframe {p : Port} {bits : List Bool} (c : Command) (h : exec (frameEndOf c p bits) s = .next t) :
      t.pending = s.pending := by
    rw [exec_frameEndOf] at h
    cases h
    exact s.pending_frameEnd c p bits
  match c, h with
  | .powerOn _, h | .resetnFall, h => cases h; rfl
  | .loaderStart _ _ _, h => cases h; split <;> rfl
  | .tick bus, h => cases h; simp
  | .frameOpen p, h =>
    cases h
    split
    · rfl
    · split <;> rfl
  | .responseSnapshot p b, h =>
    cases h
    split
    · rfl
    · split
      · split <;> rfl
      all_goals rfl
  | .ignoredFrame p bits, h =>
    cases h
    split
    · split <;> rfl
    all_goals exact s.pending_unjudgedEnd p
  | .unknownCommand p bits, h =>
    cases h
    split
    · split <;> rfl
    · exact s.pending_unjudgedEnd p
  | .status _ _, h => exact hframe .status h
  | .submit _ _, h => exact hframe .submit h
  | .fetch _ _, h => exact hframe .fetch h
  | .cancel _ _, h => exact hframe .cancel h
  | .events _ _, h => exact hframe .events h
  | .ackEvents _ _, h => exact hframe .ackEvents h
  | .setMask _ _, h => exact hframe .setMask h
  | .changes _ _, h => exact hframe .changes h
  | .watch _ _, h => exact hframe .watch h
  | .unwatch _ _, h => exact hframe .unwatch h
  | .renew _ _, h => exact hframe .renew h
  | .dirRead _ _, h => exact hframe .dirRead h
  | .dirWrite _ _, h => exact hframe .dirWrite h
  | .dirClear _ _, h => exact hframe .dirClear h
  | .seal _ _, h => exact hframe .seal h
  | .hold _ _, h => exact hframe .hold h
  | .release _ _, h => exact hframe .release h
  | .restart _ _, h => exact hframe .restart h
  | .fenceHead p, h | .pollParking p, h | .unlockHead p, h | .deferralExpiry p, h | .blockExpiry p, h
  | .pollDue p, h =>
    cases h
    split
    · rfl
    · split <;> simp
  | .lockHead p, h =>
    cases h
    split
    · split <;> simp
    · simp
  | .breakHead p, h =>
    cases h
    split
    · rfl
    · simp only
      split
      · simp
      · simp [apply_ite State.pending]
  | .endWithoutBus p, h => cases h; split <;> simp
  | .leaseExpiry e, h =>
    cases h
    split
    · rfl
    · split
      · rfl
      · split <;> simp
  | .grant bus, h => cases h; split <;> simp
  | .transactionComplete bus, h | .pollIterationComplete bus, h | .loaderReadComplete bus, h
  | .recoveryComplete bus, h => cases h; exact s.pending_afterReading bus _ (by simp)
  | .stretchLimit bus, h | .retry bus, h => cases h; split <;> simp

/-- Settles O2: `exec` has no arm that refuses or faults, and none that touches the queue. -/
theorem commandsNeverStop : Obligations.CommandsNeverStop := by
  intro c s
  obtain ⟨t, ht⟩ := exec_answers_next c s
  exact ⟨t, ht, State.pending_exec ht⟩

end Sys2Proof.Machine

/-! SUPPORT. The acts of which every command is made, each with what lets it happen. Said once here; what the queues,
the credits, the tags, the ports, the locks and the directory keep is then shown act by act. -/

namespace Sys2Proof.Machine

/-! ### What an act can make of a port and of an entry -/

/-- What frames, results, events, judging and time make of port unit `u` (R58, R128, R147 to R150): `loading` says that
the part is known to be in LOADING, where nothing is raised and no mask set. -/
structure PortUnit.keptIn (loading : Prop) (u v : PortUnit) : Prop where
  standing : v.standing = u.standing
  requests : v.requests = u.requests
  completions : v.completions = u.completions
  credits : v.credits = u.credits
  deferral : u.requests = [] → u.deferral = none → v.deferral = none
  mark : u.requests = [] → u.lockedMark = false → v.lockedMark = false
  flags : u.state ≠ .active ∨ loading → u.notify.flags = 0#10 → v.notify.flags = 0#10
  mask : u.state ≠ .active ∨ loading → v.notify.mask = u.notify.mask
  changed : u.notify.changed = 0#32 → v.notify.changed = 0#32
  frame : u.state = .offline → (∀ f, u.frame ≠ .opened f) → ∀ f, v.frame ≠ .opened f

/-- The part is in LOADING, with its directory empty. -/
def State.blank (s : State) : Prop := s.phase = .loading ∧ ∀ e, s.entry e = none

/-- Port `q` is ACTIVE, or at least has a request queued: only such a port is given a lock or a watch. -/
def State.engaged (s : State) (q : Port) : Prop := (s.port q).state = .active ∨ (s.port q).requests ≠ []

/-- What an act can make of entry `x`: its static fields stand, its lock fields go on agreeing, outside RUN it stays
untouched, and whoever is new among its owner and watchers is engaged. `sound` says that engine and bus are known to
agree, so that no health is relayed outside RUN. -/
structure State.entryKept (sound : Prop) (s : State) (x y : Entry) : Prop where
  address : y.address = x.address
  type : y.type = x.type
  windows : y.windows = x.windows
  lock : x.lockSound → y.lockSound
  untouched : sound → s.phase ≠ .run → x.untouched = true → y.untouched = true
  owner : ∀ q, y.owner = some q → x.owner = some q ∨ s.engaged q
  watch : ∀ q, hasBit y.watchSet q = true → hasBit x.watchSet q = true ∨ s.engaged q

/-- Port `p` has no place in the directory: no lock and no watch. -/
def State.unnamed (s : State) (p : Port) : Prop :=
  ∀ e, ((s.entry e).any fun x => x.owner = some p || hasBit x.watchSet p) = false

/-- What of a poll the tags and credits of its port see. -/
def Poll.key (q : Poll) : Port × Byte := (q.port, q.tag)

/-- What of the transaction on the bus the tags and credits of its port see. -/
def Current.key (c : Current) : Port × Option SlotNo × Byte × Bool := (c.port, c.slot, c.tag, c.discard)

/-! ### The acts -/

/-- A command in the middle of its effect: the state so far, the records that are still to join their queues, and the
port under a HOLD whose locks and watches are still to be taken away. -/
structure Midway where
  state : State
  recs : List (Port × Completion)
  holding : Option Port

/-- One act of a command, with what lets it happen. `sound` says that engine and bus are known to agree (R103), on which
rests that a load ends in LOADING alone and that a grant finds no transaction on the bus. -/
inductive Act (sound : Prop) : Midway → Midway → Prop where
  | restart (s : State) (cause : ResetCause) (high : Bool) :
    Act sound ⟨s, [], none⟩ ⟨s.restart cause high, [], none⟩
  /-- The queue of commands, time, pins, engine and loader (R1, R103, R159). -/
  | outside {s t : State} {recs : List (Port × Completion)} {held : Option Port}
    (frame : t = { s with
      pending := t.pending, timeBase := t.timeBase, resetn := t.resetn, loader := t.loader, engine := t.engine,
      freeCount := t.freeCount })
    (step : t.loader.step = s.loader.step ∨ (t.loader.step ≠ .finished ∧ (sound → s.phase = .loading))) :
    Act sound ⟨s, recs, held⟩ ⟨t, recs, held⟩
  | turn {s : State} {recs : List (Port × Completion)} {held : Option Port} (pos : Position) (run : s.phase = .run) :
    Act sound ⟨s, recs, held⟩ ⟨s.setTurn pos, recs, held⟩
  | ports {s t : State} {recs : List (Port × Completion)} {held : Option Port}
    (frame : t = { s with ports := t.ports })
    (kept : ∀ p, (s.port p).keptIn (sound ∧ s.blank) (t.port p)) : Act sound ⟨s, recs, held⟩ ⟨t, recs, held⟩
  | notice {s : State} {recs : List (Port × Completion)} (e : EntryNo) (writer : Port)
    (run : sound → s.phase = .run) : Act sound ⟨s, recs, none⟩ ⟨s.writeNotice e writer, recs, none⟩
  /-- A SUBMIT that passes its checks (R28, R29, R31). -/
  | enqueue {s : State} {recs : List (Port × Completion)} {held : Option Port} (p : Port) (r : Request)
    (run : s.phase = .run) (active : (s.port p).state = .active) (room : (s.port p).requests.length < 8)
    (tag : s.tagOutstanding p r.tag = false) :
    Act sound ⟨s, recs, held⟩ ⟨s.modPort p fun u => { u with requests := u.requests ++ [r] }, recs, held⟩
  /-- A record that was fetched leaves its queue (R46). -/
  | fetch {s : State} {recs : List (Port × Completion)} {held : Option Port} (p : Port) :
    Act sound ⟨s, recs, held⟩ ⟨s.modPort p fun u => { u with completions := u.completions.tail }, recs, held⟩
  /-- A request that was cancelled leaves its queue (R35). -/
  | unqueue {s : State} {recs : List (Port × Completion)} {held : Option Port} (p : Port) (tag : Byte)
    (run : s.phase = .run) (active : (s.port p).state = .active) :
    Act sound ⟨s, recs, held⟩ ⟨s.modPort p fun u => u.removeTag tag, recs, held⟩
  /-- A head is taken and ends: its record is to join (R33, R37). -/
  | take {s : State} {recs : List (Port × Completion)} {held : Option Port} {p : Port} {r : Request}
    {rest : List Request} (head : (s.port p).requests = r :: rest) (credit : (s.port p).creditFree = true)
    (rec : Completion) : Act sound ⟨s, recs, held⟩ ⟨s.modPort p PortUnit.takeHead, recs ++ [(p, rec)], held⟩
  /-- A head is taken into a poll slot (R89). -/
  | park {s : State} {recs : List (Port × Completion)} {held : Option Port} {p : Port} {r : Request}
    {rest : List Request} {k : SlotNo} {q : Poll} (head : (s.port p).requests = r :: rest)
    (credit : (s.port p).creditFree = true) (free : s.poll k = none) (room : s.parked p < 3)
    (key : q.key = (p, r.tag)) :
    Act sound ⟨s, recs, held⟩ ⟨(s.modPort p PortUnit.takeHead).setPoll k (some q), recs, held⟩
  /-- A head is taken onto the bus (R62). -/
  | launch {s : State} {recs : List (Port × Completion)} {held : Option Port} {p : Port} {r : Request}
    {rest : List Request} {c : Current} (head : (s.port p).requests = r :: rest)
    (credit : (s.port p).creditFree = true) (idle : sound → s.scheduler.current = none)
    (key : c.key = (p, none, r.tag, false)) :
    Act sound ⟨s, recs, held⟩ ⟨(s.modPort p PortUnit.takeHead).setCurrent (some c), recs, held⟩
  /-- A poll's iteration goes onto the bus (R95). -/
  | serve {s : State} {recs : List (Port × Completion)} {held : Option Port} {k : SlotNo} {q : Poll} {c : Current}
    (parked : s.poll k = some q) (idle : sound → s.scheduler.current = none) (slot : c.slot.isSome = true)
    (port : c.port = q.port) : Act sound ⟨s, recs, held⟩ ⟨s.setCurrent (some c), recs, held⟩
  | polls {s t : State} {recs : List (Port × Completion)} {held : Option Port}
    (frame : t = { s with scheduler := { s.scheduler with polls := t.scheduler.polls } })
    (key : ∀ k, (t.poll k).map Poll.key = (s.poll k).map Poll.key) : Act sound ⟨s, recs, held⟩ ⟨t, recs, held⟩
  /-- A poll ends: its record is to join (R98). -/
  | endPoll {s : State} {recs : List (Port × Completion)} {held : Option Port} {k : SlotNo} {q : Poll}
    (parked : s.poll k = some q) (rec : Completion) :
    Act sound ⟨s, recs, held⟩ ⟨s.setPoll k none, recs ++ [(q.port, rec)], held⟩
  /-- Every slot is judged (R90, R94). -/
  | judge (s : State) (recs : List (Port × Completion)) (held : Option Port) :
    Act sound ⟨s, recs, held⟩ ⟨s.mapPolls s.judgedSlot, recs ++ s.pollEnds, held⟩
  /-- The records that are to join do so (R39). -/
  | append (s : State) (recs : List (Port × Completion)) (held : Option Port) :
    Act sound ⟨s, recs, held⟩ ⟨s.append recs, [], held⟩
  /-- A transaction ends without a record of its own (R65, R66). -/
  | clear {s : State} {recs : List (Port × Completion)} {held : Option Port}
    (noRecord : ∀ c, s.scheduler.current = some c → c.slot.isSome = true ∨ c.discard = true) :
    Act sound ⟨s, recs, held⟩ ⟨s.setCurrent none, recs, held⟩
  /-- A request's transaction ends: its record is to join (R64). -/
  | finish {s : State} {recs : List (Port × Completion)} {held : Option Port} {c : Current}
    (current : s.scheduler.current = some c) (slot : c.slot = none) (kept : c.discard = false) (rec : Completion) :
    Act sound ⟨s, recs, held⟩ ⟨s.setCurrent none, recs ++ [(c.port, rec)], held⟩
  | mark {s : State} {recs : List (Port × Completion)} {held : Option Port} {c : Option Current}
    (key : c.map Current.key = s.scheduler.current.map Current.key) :
    Act sound ⟨s, recs, held⟩ ⟨s.setCurrent c, recs, held⟩
  | entries {s t : State} {recs : List (Port × Completion)} {held : Option Port}
    (frame : t = { s with directory := t.directory })
    (kept : ∀ e, Option.Rel (s.entryKept sound) (s.entry e) (t.entry e)) : Act sound ⟨s, recs, held⟩ ⟨t, recs, held⟩
  /-- A DIR_WRITE that passes its checks (R19). -/
  | fill {s : State} {recs : List (Port × Completion)} {held : Option Port} {e : EntryNo} {x : Entry}
    (config : s.phase = .config) (valid : x.valid = true) (untouched : x.untouched = true)
    (free : s.addressTaken e x.address = false) : Act sound ⟨s, recs, held⟩ ⟨s.setEntry e (some x), recs, held⟩
  | empty {s : State} {recs : List (Port × Completion)} {held : Option Port} (e : EntryNo) :
    Act sound ⟨s, recs, held⟩ ⟨s.setEntry e none, recs, held⟩
  | runs {s : State} {recs : List (Port × Completion)} {held : Option Port} (loaded : s.phase ≠ .loading) :
    Act sound ⟨s, recs, held⟩ ⟨{ s with phase := .run }, recs, held⟩
  /-- A HOLD begins with the target's own port, its polls and its transaction (R48, R101, R137). -/
  | hold {s : State} {t : Port} {o : HoldOrigin} (loaded : s.phase ≠ .loading)
    (active : (s.port t).state = .active) : Act sound ⟨s, [], none⟩ ⟨s.beginHold t o, [], some t⟩
  /-- A HOLD has taken away the target's locks and watches (R82, R156). -/
  | held {s : State} {recs : List (Port × Completion)} {t : Port} (unnamed : s.unnamed t) :
    Act sound ⟨s, recs, some t⟩ ⟨s, recs, none⟩
  /-- A RELEASE (R141). -/
  | release {s : State} {recs : List (Port × Completion)} {held : Option Port} (t : Port) :
    Act sound ⟨s, recs, held⟩
      ⟨s.modPort t fun u => { u with state := .active, origin := none, lastResult := .noCode }, recs, held⟩
  | loadFault {s : State} (f : LoadFault) (loading : sound → s.phase = .loading) :
    Act sound ⟨s, [], none⟩ ⟨s.loadFault f, [], none⟩
  | commit {s : State} (valid : validate s.loader.staging = none) (loading : sound → s.phase = .loading) :
    Act sound ⟨s, [], none⟩ ⟨s.commit, [], none⟩

/-- What a number of acts make of a command in the middle of its effect. -/
abbrev Acts (sound : Prop) : Midway → Midway → Prop := Relation.ReflTransGen (Act sound)

/-- What every act keeps, acts keep. -/
theorem Acts.keep {sound : Prop} {P : Midway → Prop} (act : ∀ {m m'}, Act sound m m' → P m → P m') {m m' : Midway}
    (h : Acts sound m m') (hm : P m) : P m' := by
  induction h with
  | refl => exact hm
  | tail _ hact ih => exact act hact ih

end Sys2Proof.Machine

/-! SUPPORT. What the acts make of the directory, and the statements that every step keeps the locks and the directory
sound. -/

namespace Sys2Proof.Machine

/-! ### The directory, act by act -/

theorem State.entryKept_refl (sound : Prop) (s : State) (x : Entry) : s.entryKept sound x x :=
  ⟨rfl, rfl, rfl, id, fun _ _ => id, fun _ => .inl, fun _ => .inl⟩

theorem State.entriesKept_refl (sound : Prop) (s : State) (o : Option Entry) : Option.Rel (s.entryKept sound) o o := by
  cases o with
  | none => exact .none
  | some x => exact .some (s.entryKept_refl sound x)

/-- An entry that is related to one before it. -/
theorem exists_of_rel {R : Entry → Entry → Prop} {o o' : Option Entry} (h : Option.Rel R o o') {y : Entry}
    (hy : o' = some y) : ∃ x, o = some x ∧ R x y := by
  cases h with
  | none => cases hy
  | some hR => cases hy; exact ⟨_, rfl, hR⟩

/-- What one act can make of the directory: it is emptied, each entry is kept, a slot is filled or emptied in CONFIG,
or a valid list is committed. -/
theorem Act.directory {sound : Prop} {m m' : Midway} (h : Act sound m m') :
    (∀ e, m'.state.entry e = none)
      ∨ (∀ e, Option.Rel (m.state.entryKept sound) (m.state.entry e) (m'.state.entry e))
      ∨ (∃ e x, m.state.phase = .config ∧ x.valid = true ∧ x.untouched = true
          ∧ m.state.addressTaken e x.address = false ∧ m'.state = m.state.setEntry e (some x))
      ∨ (∃ e, m'.state = m.state.setEntry e none)
      ∨ (validate m.state.loader.staging = none
          ∧ ∀ e, m'.state.entry e = listedEntry m.state.loader.staging e) := by
  have same {s t : State} (hd : ∀ e, t.entry e = s.entry e) :
      ∀ e, Option.Rel (s.entryKept sound) (s.entry e) (t.entry e) :=
    fun e => by rw [hd e]; exact s.entriesKept_refl sound _
  cases h with
  | restart s cause high => exact .inl fun e => by simp
  | loadFault f => exact .inl fun e => by simp [State.loadFault, State.entry, State.raiseAll, State.raiseIn]
  | entries frame kept => exact .inr (.inl kept)
  | fill config valid untouched free => exact .inr (.inr (.inl ⟨_, _, config, valid, untouched, free, rfl⟩))
  | empty e => exact .inr (.inr (.inr (.inl ⟨e, rfl⟩)))
  | commit valid => exact .inr (.inr (.inr (.inr ⟨valid, fun e => State.entry_commit _ e⟩)))
  | outside frame | ports frame | polls frame => exact .inr (.inl (same fun e => by rw [frame]; rfl))
  | notice e w => exact .inr (.inl (same fun i => by rw [State.writeNotice_eq]; rfl))
  | judge s => exact .inr (.inl (same fun e => by simp))
  | append s recs => exact .inr (.inl (same fun e => by rw [State.append_eq]; rfl))
  | turn | enqueue | fetch | unqueue | take | park | launch | serve | endPoll | clear | finish | mark | runs | hold
  | held | release => exact .inr (.inl (same fun _ => rfl))

/-! ### Locks (R68, R69, R71) -/

/-- An entry that nothing has touched has lock fields that agree (R17). -/
theorem Entry.lockSound_of_untouched {x : Entry} (h : x.untouched = true) : x.lockSound := by
  simp only [Entry.untouched, Bool.and_eq_true, decide_eq_true_eq] at h
  obtain ⟨⟨⟨⟨⟨-, howner⟩, hvalue⟩, hleft⟩, hreason⟩, -⟩ := h
  simp [Entry.lockSound, hvalue, hleft, hreason]

/-- A record fills its slot with an untouched entry (R14, R17). -/
theorem RawRecord.untouched_toEntry (r : RawRecord) : r.toEntry.untouched = true := by
  simp [RawRecord.toEntry, Entry.untouched]

/-- An entry of a list is a record's of the walk. -/
theorem listedEntry_eq_some {staged : List Byte} {e : EntryNo} {x : Entry} (h : listedEntry staged e = some x) :
    ∃ r ∈ (walkFrom staged staged.length 8).1, r.number.toNat = e.val ∧ r.toEntry = x := by
  obtain ⟨r, hfind, hr⟩ := Option.map_eq_some_iff.mp h
  exact ⟨r, List.mem_of_find?_eq_some hfind, by simpa using List.find?_some hfind, hr⟩

/-- Every act keeps the lock fields of every entry in agreement. -/
theorem Act.locksSound {sound : Prop} {m m' : Midway} (h : Act sound m m') (hm : m.state.locksSound) :
    m'.state.locksSound := by
  intro e y hy
  obtain hnone | hkept | ⟨i, x, -, -, hx, -, heq⟩ | ⟨i, heq⟩ | ⟨-, hlisted⟩ := h.directory
  · simp [hnone e] at hy
  · obtain ⟨x, hx, hk⟩ := exists_of_rel (hkept e) hy
    exact hk.lock (hm e x hx)
  · rw [heq, State.entry_setEntry] at hy
    split at hy
    · cases hy; exact Entry.lockSound_of_untouched hx
    · exact hm e y hy
  · rw [heq, State.entry_setEntry] at hy
    split at hy
    · cases hy
    · exact hm e y hy
  · obtain ⟨r, -, -, rfl⟩ := listedEntry_eq_some ((hlisted e).symm.trans hy)
    exact Entry.lockSound_of_untouched r.untouched_toEntry

/-! ### The directory (R3, R8) -/

/-- The record of a valid list fills a slot with a valid entry. -/
theorem RawRecord.valid_toEntry {r : RawRecord} (h : r.valid = true) : r.toEntry.valid = true := by
  simp only [RawRecord.valid, Bool.and_eq_true, decide_eq_true_eq] at h
  obtain ⟨⟨⟨hlow, hhigh⟩, -⟩, htype⟩ := h
  cases ht : typeOfByte r.type with
  | none => simp [ht] at htype
  | some t =>
    simp only [ht] at htype
    have hmod : r.address.toNat % 128 = r.address.toNat := Nat.mod_eq_of_lt (by omega)
    simp [Entry.valid, RawRecord.toEntry, ht, htype, hmod, hlow, hhigh]

/-- Two valid records with one address in their entries have one address byte. -/
theorem RawRecord.address_of_toEntry {r q : RawRecord} (hr : r.valid = true) (hq : q.valid = true)
    (h : r.toEntry.address = q.toEntry.address) : r.address = q.address := by
  obtain ⟨hr', -⟩ := RawRecord.fills_toEntry hr
  obtain ⟨hq', -⟩ := RawRecord.fills_toEntry hq
  exact BitVec.eq_of_toNat_eq (by rw [← hr', ← hq', h])

/-- In a list without a repeated address two records with one address are one. -/
theorem eq_of_repeatsAddress {l : List RawRecord} (h : repeatsAddress l = false) {r q : RawRecord} (hr : r ∈ l)
    (hq : q ∈ l) (ha : r.address = q.address) : r = q := by
  have hnodup : (l.map RawRecord.address).Nodup := by
    by_contra hd
    simp [repeatsAddress_iff.mpr hd] at h
  exact List.inj_on_of_nodup_map hnodup hr hq ha

/-- No occupied slot but `e` holds the address. -/
theorem State.addressTaken_eq_false {s : State} {e : EntryNo} {a : BitVec 7} :
    s.addressTaken e a = false ↔ ∀ i x, s.entry i = some x → x.address = a → i = e := by
  simp only [State.addressTaken, List.any_eq_false, List.mem_finRange, true_imp_iff, Bool.and_eq_true, not_and,
    bne_iff_ne, Bool.not_eq_true, Option.any_eq_false, decide_eq_false_iff_not]
  exact ⟨fun h i x hx ha => by_contra fun hi => h i hi x hx ha, fun h i hi x hx ha => hi (h i x hx ha)⟩

/-- Every act keeps every entry valid and no bus address in two slots. -/
theorem Act.directorySound {sound : Prop} {m m' : Midway} (h : Act sound m m') (hm : m.state.directorySound) :
    m'.state.directorySound := by
  obtain ⟨hvalid, hunique⟩ := hm
  obtain hnone | hkept | ⟨i, x, -, hx, -, hfree, heq⟩ | ⟨i, heq⟩ | ⟨hlist, hlisted⟩ := h.directory
  · exact ⟨fun e y hy => by simp [hnone e] at hy, fun e e' y y' hy => by simp [hnone e] at hy⟩
  · refine ⟨fun e y hy => ?_, fun e e' y y' hy hy' ha => ?_⟩
    · obtain ⟨x, hx, hk⟩ := exists_of_rel (hkept e) hy
      have := hvalid e x hx
      simpa only [Entry.valid, hk.address, hk.type, hk.windows] using this
    · obtain ⟨x, hx, hk⟩ := exists_of_rel (hkept e) hy
      obtain ⟨x', hx', hk'⟩ := exists_of_rel (hkept e') hy'
      exact hunique e e' x x' hx hx' (by rw [← hk.address, ← hk'.address, ha])
  · rw [heq]
    have hfree' := State.addressTaken_eq_false.mp hfree
    refine ⟨fun e y hy => ?_, fun e e' y y' hy hy' ha => ?_⟩
    · rw [State.entry_setEntry] at hy
      split at hy
      · cases hy; exact hx
      · exact hvalid e y hy
    · rw [State.entry_setEntry] at hy hy'
      split at hy
      next he =>
        cases hy
        split at hy'
        next he' => rw [he, he']
        next => exact he.trans (hfree' e' y' hy' ha.symm).symm
      next =>
        split at hy'
        next he' => cases hy'; exact (hfree' e y hy ha).trans he'.symm
        next => exact hunique e e' y y' hy hy' ha
  · rw [heq]
    refine ⟨fun e y hy => ?_, fun e e' y y' hy hy' ha => ?_⟩
    · rw [State.entry_setEntry] at hy
      split at hy
      · cases hy
      · exact hvalid e y hy
    · rw [State.entry_setEntry] at hy hy'
      split at hy
      · cases hy
      · split at hy'
        · cases hy'
        · exact hunique e e' y y' hy hy' ha
  · obtain ⟨-, hrecords, -⟩ := validate_eq_none hlist
    obtain ⟨hrepeat, -⟩ := validate_eq_none_records hlist
    refine ⟨fun e y hy => ?_, fun e e' y y' hy hy' ha => ?_⟩
    · obtain ⟨r, hr, -, rfl⟩ := listedEntry_eq_some ((hlisted e).symm.trans hy)
      exact RawRecord.valid_toEntry (hrecords r hr)
    · obtain ⟨r, hr, hn, rfl⟩ := listedEntry_eq_some ((hlisted e).symm.trans hy)
      obtain ⟨r', hr', hn', rfl⟩ := listedEntry_eq_some ((hlisted e').symm.trans hy')
      have := eq_of_repeatsAddress hrepeat hr hr' (RawRecord.address_of_toEntry (hrecords r hr) (hrecords r' hr') ha)
      rw [Fin.ext_iff, ← hn, ← hn', this]

end Sys2Proof.Machine

/-! SUPPORT. What the acts make of queues, credits and tags. -/

namespace Sys2Proof.Machine

/-! ### The tags of parked polls and of the transaction on the bus -/

/-- The tag of a poll, as its port sees it. -/
def pollTag (p : Port) (o : Option Poll) : Option Byte := o.bind fun q => if q.port = p then some q.tag else none

/-- The tags of the polls that port `p` has parked. -/
def State.pollTags (s : State) (p : Port) : List Byte := (List.finRange 6).filterMap fun k => pollTag p (s.poll k)

/-- The tag of port `p`'s own request on the bus, unless it is to be discarded. -/
def State.currentTags (s : State) (p : Port) : List Byte :=
  (s.scheduler.current.toList.filter fun c => c.port = p && c.slot.isNone && !c.discard).map Current.tag

theorem State.outstandingTags_eq (s : State) (p : Port) :
    s.outstandingTags p = (s.port p).requests.map Request.tag ++ s.pollTags p ++ s.currentTags p := rfl

theorem State.parked_eq_length (s : State) (p : Port) : s.parked p = (s.pollTags p).length := by
  rw [State.parked, State.pollTags, List.length_filterMap_eq_countP]
  congr 1
  funext k
  cases hq : s.poll k with
  | none => rfl
  | some q => by_cases h : q.port = p <;> simp [pollTag, h]

theorem State.creditsDue_eq_length (s : State) (p : Port) :
    s.creditsDue p = (s.pollTags p).length + (s.currentTags p).length := by
  rw [State.creditsDue, State.parked_eq_length, State.currentTags]
  cases s.scheduler.current with
  | none => rfl
  | some c =>
    cases hb : c.port = p && c.slot.isNone && !c.discard <;> simp [hb]

/-- Tags are those of the polls' keys. -/
theorem pollTag_of_key {o o' : Option Poll} (h : o'.map Poll.key = o.map Poll.key) (p : Port) :
    pollTag p o' = pollTag p o := by
  cases o <;> cases o' <;> simp [Poll.key, pollTag] at h ⊢
  obtain ⟨hport, htag⟩ := h
  simp [hport, htag]

theorem State.pollTags_of_key {s t : State} (h : ∀ k, (t.poll k).map Poll.key = (s.poll k).map Poll.key) (p : Port) :
    t.pollTags p = s.pollTags p := by
  simp only [State.pollTags, pollTag_of_key (h _)]

theorem State.currentTags_of_key {s t : State}
    (h : t.scheduler.current.map Current.key = s.scheduler.current.map Current.key) (p : Port) :
    t.currentTags p = s.currentTags p := by
  unfold State.currentTags
  cases hs : s.scheduler.current <;> cases ht : t.scheduler.current <;> simp [hs, ht, Current.key] at h ⊢
  obtain ⟨hport, hslot, htag, hdiscard⟩ := h
  rename_i c c'
  cases hb : c.port = p && c.slot.isNone && !c.discard <;> simp [hport, hslot, htag, hdiscard, hb]

/-- Fewer polls, fewer tags. -/
theorem State.pollTags_sublist {s t : State}
    (h : ∀ k, t.poll k = none ∨ (t.poll k).map Poll.key = (s.poll k).map Poll.key)
    (p : Port) : (t.pollTags p).Sublist (s.pollTags p) := by
  unfold State.pollTags
  induction List.finRange 6 with
  | nil => exact .slnil
  | cons k l ih =>
    obtain hk | hk := h k
    · simp only [List.filterMap_cons, hk, pollTag, Option.bind_none]
      split
      · exact ih
      · exact ih.cons _
    · simp only [List.filterMap_cons, pollTag_of_key hk]
      split
      · exact ih
      · exact ih.cons_cons _

/-- A poll put into a free slot adds its tag to its port's. -/
theorem State.pollTags_setPoll_some {s : State} {k : SlotNo} (hk : s.poll k = none) (q : Poll) (p : Port) :
    ((s.setPoll k (some q)).pollTags p).Perm ((if q.port = p then [q.tag] else []) ++ s.pollTags p) := by
  obtain ⟨l, m, hlm⟩ := List.append_of_mem (List.mem_finRange k)
  have hnodup := List.nodup_finRange 6
  rw [hlm] at hnodup
  obtain ⟨hl, hm⟩ : k ∉ l ∧ k ∉ m := by
    simp only [List.nodup_append, List.nodup_cons] at hnodup
    exact ⟨fun h => hnodup.2.2 k h k (by simp) rfl, hnodup.2.1.1⟩
  have hother (n : List SlotNo) (hn : k ∉ n) : (n.filterMap fun j => pollTag p ((s.setPoll k (some q)).poll j))
      = n.filterMap fun j => pollTag p (s.poll j) :=
    List.filterMap_congr fun j hj => by
      rw [State.poll_setPoll, if_neg fun h => hn (by rwa [h] at hj)]
  rw [State.pollTags, State.pollTags, hlm]
  rw [List.filterMap_append, List.filterMap_append, List.filterMap_cons, List.filterMap_cons, hother l hl, hother m hm,
    State.poll_setPoll, if_pos rfl, hk]
  by_cases hp : q.port = p
  · simp [pollTag, hp]
  · simp [pollTag, hp]

/-- A poll that leaves its slot takes its tag with it. -/
theorem State.pollTags_setPoll_none {s : State} {k : SlotNo} {q : Poll} (hk : s.poll k = some q) (p : Port) :
    (s.pollTags p).Perm ((if q.port = p then [q.tag] else []) ++ (s.setPoll k none).pollTags p) := by
  have h := State.pollTags_setPoll_some (s := s.setPoll k none) (k := k) (by simp) q p
  rwa [State.setPoll_setPoll, ← hk, State.setPoll_self] at h

/-- Each poll that judging ends leaves its slot for a record. -/
theorem State.length_pollTags_judged (s : State) (p : Port) :
    ((s.mapPolls s.judgedSlot).pollTags p).length + (recordsFor s.pollEnds p).length = (s.pollTags p).length := by
  unfold State.pollTags State.pollEnds
  simp only [State.poll_mapPolls]
  induction List.finRange 6 with
  | nil => rfl
  | cons k l ih =>
    cases hq : s.poll k with
    | none => simpa [List.filterMap_cons, hq, pollTag, State.judgedRecord] using ih
    | some q =>
      cases hv : s.judgeSlot q with
      | keep q' =>
        have hport := State.port_of_judgeSlot hv
        by_cases hp : q.port = p <;>
          simp [hq, pollTag, State.judgedSlot, State.judgedRecord, hv, hport, hp] at ih ⊢ <;> omega
      | ends st =>
        by_cases hp : q.port = p <;>
          simp [hq, pollTag, State.judgedSlot, State.judgedRecord, hv, hp] at ih ⊢ <;> omega

/-- Judging moves the state and the block timer of a poll that keeps its slot, and no more of it (R90, R93, R94). -/
theorem State.eq_of_judgeSlot {s : State} {q q' : Poll} (h : s.judgeSlot q = .keep q') :
    q' = { q with state := q'.state, blockTimer := q'.blockTimer } := by
  unfold State.judgeSlot State.judgeDue at h
  repeat' split at h
  all_goals cases h <;> rfl

/-- Judging leaves the key of a poll that keeps its slot. -/
theorem State.key_judgedSlot (s : State) (o : Option Poll) :
    s.judgedSlot o = none ∨ (s.judgedSlot o).map Poll.key = o.map Poll.key := by
  cases o with
  | none => exact .inl rfl
  | some q =>
    cases hv : s.judgeSlot q with
    | ends st => exact .inl (by simp [State.judgedSlot, hv])
    | keep q' =>
      have hkey : q'.key = q.key := by rw [State.eq_of_judgeSlot hv]; rfl
      exact .inr (by simp [State.judgedSlot, hv, hkey])

end Sys2Proof.Machine

/-! SUPPORT. Credits and tags through every act. -/

namespace Sys2Proof.Machine

/-! ### The balance of credits, with records still to join -/

/-- The reserved credits of every port are those of its polls, of its request on the bus, and of the records among
`recs` that are still to join its queue; and no queue is beyond its size (R31, R36, R37, R87). -/
def State.balancedWith (s : State) (recs : List (Port × Completion)) : Prop :=
  ∀ p, (s.port p).credits = (s.pollTags p).length + (s.currentTags p).length + (recordsFor recs p).length
    ∧ (s.port p).completions.length + (s.port p).credits ≤ 8 ∧ (s.port p).requests.length ≤ 8
    ∧ (s.pollTags p).length ≤ 3

theorem State.balancedWith_nil {s : State} : s.balancedWith [] ↔ s.creditsBalance := by
  simp [State.balancedWith, State.creditsBalance, State.creditsDue_eq_length, State.parked_eq_length]

/-- What a state has of queues, credits and tags is the same in both. -/
structure State.sameWork (s t : State) : Prop where
  requests : ∀ p, (t.port p).requests = (s.port p).requests
  completions : ∀ p, (t.port p).completions = (s.port p).completions
  credits : ∀ p, (t.port p).credits = (s.port p).credits
  polls : ∀ k, (t.poll k).map Poll.key = (s.poll k).map Poll.key
  current : t.scheduler.current.map Current.key = s.scheduler.current.map Current.key

theorem State.sameWork.balancedWith {s t : State} (h : s.sameWork t) {recs : List (Port × Completion)}
    (hs : s.balancedWith recs) : t.balancedWith recs := fun p => by
  simpa only [State.pollTags_of_key h.polls p, State.currentTags_of_key h.current p, h.requests, h.completions,
    h.credits]
    using hs p

theorem State.sameWork.tagsDiffer {s t : State} (h : s.sameWork t) (hs : s.tagsDiffer) : t.tagsDiffer := fun p => by
  simpa only [State.outstandingTags_eq, State.pollTags_of_key h.polls p, State.currentTags_of_key h.current p,
    h.requests]
    using hs p

/-- Tags that are among those that differ, as often at most, differ. -/
theorem State.tagsDiffer_of_subperm {s t : State}
    (h : ∀ p, (t.outstandingTags p).Subperm (s.outstandingTags p)) (hs : s.tagsDiffer) : t.tagsDiffer := fun p => by
  obtain ⟨l, hperm, hsub⟩ := h p
  exact hperm.nodup_iff.mp ((hs p).sublist hsub)

/-- Fewer requests, polls and transactions, fewer tags. -/
theorem State.tagsDiffer_of_sublists {s t : State}
    (hr : ∀ p, ((t.port p).requests).Sublist (s.port p).requests) (hp : ∀ p, (t.pollTags p).Sublist (s.pollTags p))
    (hc : ∀ p, (t.currentTags p).Sublist (s.currentTags p)) (hs : s.tagsDiffer) : t.tagsDiffer :=
  State.tagsDiffer_of_subperm (fun p => (((hr p).map Request.tag).append (hp p) |>.append (hc p)).subperm) hs

section
variable {s : State} {recs : List (Port × Completion)}

/-- The tags of a head that is taken and of the requests left. -/
theorem State.requests_takeHead {p : Port} {r : Request} {rest : List Request} (head : (s.port p).requests = r :: rest)
    (i : Port) : (((s.modPort p PortUnit.takeHead).port i).requests.map Request.tag)
      = if i = p then rest.map Request.tag else (s.port i).requests.map Request.tag := by
  by_cases h : i = p
  · subst h; simp [PortUnit.takeHead, PortUnit.dropHead, head]
  · simp [h]

/-- The part of a taken head in the balance: one credit more, one request less. -/
theorem State.balance_takeHead {p : Port} {r : Request} {rest : List Request} (hs : s.balancedWith recs)
    (head : (s.port p).requests = r :: rest) (credit : (s.port p).creditFree = true) (i : Port) :
    ((s.modPort p PortUnit.takeHead).port i).credits = (s.pollTags i).length + (s.currentTags i).length
        + (recordsFor recs i).length + (if i = p then 1 else 0)
      ∧ ((s.modPort p PortUnit.takeHead).port i).completions.length
        + ((s.modPort p PortUnit.takeHead).port i).credits ≤ 8
      ∧ ((s.modPort p PortUnit.takeHead).port i).requests.length ≤ 8 := by
  obtain ⟨hcredits, hroom, hqueue, -⟩ := hs i
  by_cases h : i = p
  · subst h
    simp [PortUnit.creditFree, PortUnit.takeHead, PortUnit.dropHead, head] at credit hqueue ⊢
    omega
  · simp only [State.port_modPort, if_neg h]
    exact ⟨by simpa using hcredits, hroom, hqueue⟩

/-! ### Act by act -/

theorem State.balancedWith_enqueue {p : Port} {r : Request} (hs : s.balancedWith recs)
    (room : (s.port p).requests.length < 8) :
    (s.modPort p fun u => { u with requests := u.requests ++ [r] }).balancedWith recs := fun i => by
  obtain ⟨hcredits, hroom, hqueue, hpolls⟩ := hs i
  by_cases h : i = p
  · subst h
    rw [State.port_modPort, if_pos rfl]
    exact ⟨hcredits, hroom, by simpa using room, hpolls⟩
  · rw [State.port_modPort, if_neg h]
    exact ⟨hcredits, hroom, hqueue, hpolls⟩

/-- A tag that is not outstanding is not among the outstanding ones (R29). -/
theorem State.not_mem_outstandingTags {p : Port} {tag : Byte} (h : s.tagOutstanding p tag = false) :
    tag ∉ s.outstandingTags p := by
  simp only [State.tagOutstanding, Bool.or_eq_false_iff, List.any_eq_false, Option.any_eq_false, decide_eq_true_eq,
    List.mem_finRange, true_imp_iff] at h
  obtain ⟨⟨hqueue, hcurrent⟩, hpolls⟩ := h
  simp only [State.outstandingTags, List.mem_append, List.mem_map, List.mem_filterMap, List.mem_filter,
    Option.mem_toList, Option.bind_eq_some_iff, Bool.and_eq_true, decide_eq_true_eq, Bool.not_eq_true', not_or]
  refine ⟨⟨fun ⟨r, hr, ht⟩ => hqueue r hr ht, fun ⟨k, _, q, hq, ht⟩ => ?_⟩,
    fun ⟨c, ⟨hc, ⟨hport, _⟩, hd⟩, ht⟩ => by simpa [hport, ht, hd] using hcurrent c hc⟩
  split at ht
  · next hport => exact hpolls k (by simpa [hq, hport] using ht)
  · cases ht

theorem State.tagsDiffer_enqueue {p : Port} {r : Request} (hs : s.tagsDiffer) (tag : s.tagOutstanding p r.tag = false) :
    (s.modPort p fun u => { u with requests := u.requests ++ [r] }).tagsDiffer := fun i => by
  by_cases h : i = p
  · subst h
    have hperm : ((s.modPort i fun u => { u with requests := u.requests ++ [r] }).outstandingTags i).Perm
        (r.tag :: s.outstandingTags i) := by
      simp only [State.outstandingTags_eq, State.port_modPort, if_true, List.map_append, List.append_assoc]
      exact List.perm_middle
    exact hperm.nodup_iff.mpr (List.nodup_cons.mpr ⟨State.not_mem_outstandingTags tag, hs i⟩)
  · rw [State.outstandingTags_eq, State.port_modPort, if_neg h]
    exact hs i

theorem State.balancedWith_fetch (p : Port) (hs : s.balancedWith recs) :
    (s.modPort p fun u => { u with completions := u.completions.tail }).balancedWith recs := fun i => by
  obtain ⟨hcredits, hroom, hqueue, hpolls⟩ := hs i
  by_cases h : i = p
  · subst h
    rw [State.port_modPort, if_pos rfl]
    exact ⟨hcredits, by simp only [List.length_tail]; omega, hqueue, hpolls⟩
  · rw [State.port_modPort, if_neg h]
    exact ⟨hcredits, hroom, hqueue, hpolls⟩

/-- What is left of a queue without the request of a tag (R35). -/
theorem PortUnit.removeTag_sublist (u : PortUnit) (tag : Byte) : (u.removeTag tag).requests.Sublist u.requests
    ∧ (u.removeTag tag).completions = u.completions ∧ (u.removeTag tag).credits = u.credits := by
  unfold PortUnit.removeTag
  split
  · exact ⟨List.tail_sublist _, rfl, rfl⟩
  · exact ⟨List.eraseP_sublist, rfl, rfl⟩

/-- Less in the queues and the rest the same. -/
theorem State.balancedWith_of_le {t : State} (hs : s.balancedWith recs)
    (hr : ∀ p, (t.port p).requests.length ≤ (s.port p).requests.length)
    (hc : ∀ p, (t.port p).completions = (s.port p).completions) (hcr : ∀ p, (t.port p).credits = (s.port p).credits)
    (hp : ∀ p, t.pollTags p = s.pollTags p) (hcur : ∀ p, t.currentTags p = s.currentTags p) : t.balancedWith recs :=
  fun p => by
    obtain ⟨hcredits, hroom, hqueue, hpolls⟩ := hs p
    rw [hc, hcr, hp, hcur]
    exact ⟨hcredits, hroom, (hr p).trans hqueue, hpolls⟩

/-- A cancelled request, in its own queue and in the others. -/
theorem State.port_removeTag (s : State) (p : Port) (tag : Byte) (i : Port) :
    ((s.modPort p fun u => u.removeTag tag).port i).requests.Sublist (s.port i).requests
      ∧ ((s.modPort p fun u => u.removeTag tag).port i).completions = (s.port i).completions
      ∧ ((s.modPort p fun u => u.removeTag tag).port i).credits = (s.port i).credits := by
  rw [State.port_modPort]
  split
  · exact (s.port i).removeTag_sublist tag
  · exact ⟨.refl _, rfl, rfl⟩

theorem State.balancedWith_unqueue (p : Port) (tag : Byte) (hs : s.balancedWith recs) :
    (s.modPort p fun u => u.removeTag tag).balancedWith recs :=
  State.balancedWith_of_le hs (fun i => (s.port_removeTag p tag i).1.length_le)
    (fun i => (s.port_removeTag p tag i).2.1)
    (fun i => (s.port_removeTag p tag i).2.2) (fun _ => rfl) fun _ => rfl

theorem State.tagsDiffer_unqueue (p : Port) (tag : Byte) (hs : s.tagsDiffer) :
    (s.modPort p fun u => u.removeTag tag).tagsDiffer :=
  State.tagsDiffer_of_sublists (fun i => (s.port_removeTag p tag i).1) (fun _ => .refl _) (fun _ => .refl _) hs

/-- One record more, of one port. -/
theorem length_recordsFor_snoc (recs : List (Port × Completion)) (p : Port) (rec : Completion) (i : Port) :
    (recordsFor (recs ++ [(p, rec)]) i).length = (recordsFor recs i).length + if i = p then 1 else 0 := by
  by_cases h : i = p
  · simp [recordsFor_append, h]
  · simp [recordsFor_append, h, Ne.symm h]

theorem State.balancedWith_take {p : Port} {r : Request} {rest : List Request} (hs : s.balancedWith recs)
    (head : (s.port p).requests = r :: rest) (credit : (s.port p).creditFree = true) (rec : Completion) :
    (s.modPort p PortUnit.takeHead).balancedWith (recs ++ [(p, rec)]) := fun i => by
  obtain ⟨hcredits, hroom, hqueue⟩ := State.balance_takeHead hs head credit i
  obtain ⟨-, -, -, hpolls⟩ := hs i
  exact ⟨by rw [hcredits, length_recordsFor_snoc, ← add_assoc]; rfl, hroom, hqueue, hpolls⟩

theorem State.tagsDiffer_take {p : Port} (hs : s.tagsDiffer) : (s.modPort p PortUnit.takeHead).tagsDiffer := by
  refine State.tagsDiffer_of_sublists (s := s) (fun i => ?_) (fun _ => .refl _) (fun _ => .refl _) hs
  rw [State.port_modPort]
  split
  · exact List.tail_sublist _
  · exact .refl _

theorem State.balancedWith_park {p : Port} {r : Request} {rest : List Request} {k : SlotNo} {q : Poll}
    (hs : s.balancedWith recs) (head : (s.port p).requests = r :: rest) (credit : (s.port p).creditFree = true)
    (free : s.poll k = none) (room : s.parked p < 3) (key : q.key = (p, r.tag)) :
    ((s.modPort p PortUnit.takeHead).setPoll k (some q)).balancedWith recs := fun i => by
  obtain ⟨hcredits, hroom, hqueue⟩ := State.balance_takeHead hs head credit i
  obtain ⟨-, -, -, hpolls⟩ := hs i
  obtain ⟨hport, -⟩ := Prod.mk.inj key
  have hlen := (State.pollTags_setPoll_some (s := s.modPort p PortUnit.takeHead) free q i).length_eq
  rw [List.length_append] at hlen
  rw [State.parked_eq_length] at room
  change _ = _ + (s.pollTags i).length at hlen
  refine ⟨?_, hroom, hqueue, ?_⟩
  · rw [State.port_setPoll, hcredits, hlen]
    change _ = _ + (s.currentTags i).length + _
    by_cases h : i = p
    · simp [h, hport]; omega
    · simp [h, hport, Ne.symm h]
  · rw [hlen]
    by_cases h : i = p
    · subst h; simp [hport]; omega
    · simpa [hport, Ne.symm h] using hpolls

theorem State.tagsDiffer_park {p : Port} {r : Request} {rest : List Request} {k : SlotNo} {q : Poll}
    (hs : s.tagsDiffer) (head : (s.port p).requests = r :: rest) (free : s.poll k = none) (key : q.key = (p, r.tag)) :
    ((s.modPort p PortUnit.takeHead).setPoll k (some q)).tagsDiffer := by
  obtain ⟨hport, htag⟩ := Prod.mk.inj key
  refine State.tagsDiffer_of_subperm (fun i => ?_) hs
  have hpolls := State.pollTags_setPoll_some (s := s.modPort p PortUnit.takeHead) free q i
  rw [State.outstandingTags_eq, State.outstandingTags_eq, State.port_setPoll, State.requests_takeHead head]
  refine List.Perm.subperm ?_
  refine List.Perm.append_right _ ?_
  refine (hpolls.append_left _).trans ?_
  by_cases h : i = p
  · subst h
    simp only [hport, htag, if_true, head, List.map_cons]
    exact List.perm_middle
  · simp only [hport, Ne.symm h, h, if_false, List.nil_append]
    exact .refl _

/-- With no transaction of the scheduler on the bus no port has a tag there. -/
theorem State.currentTags_eq_nil (h : s.scheduler.current = none) (p : Port) : s.currentTags p = [] := by
  simp [State.currentTags, h]

/-- The tag that a port's own transaction puts on the bus. -/
theorem State.currentTags_launch {t : State} {c : Current} {p : Port} {tag : Byte}
    (hc : t.scheduler.current = some c) (key : c.key = (p, none, tag, false)) (i : Port) :
    t.currentTags i = if i = p then [tag] else [] := by
  simp only [Current.key, Prod.mk.injEq] at key
  obtain ⟨hport, hslot, htag, hdiscard⟩ := key
  by_cases h : i = p
  · simp [State.currentTags, hc, hport, hslot, htag, hdiscard, h]
  · simp [State.currentTags, hc, hport, Ne.symm h, h]

/-- A transaction for a poll slot, or one to be discarded, has no tag of its own. -/
theorem State.currentTags_recordless {t : State}
    (h : ∀ c, t.scheduler.current = some c → c.slot.isSome = true ∨ c.discard = true) (p : Port) :
    t.currentTags p = [] := by
  cases hc : t.scheduler.current with
  | none => exact State.currentTags_eq_nil hc p
  | some c =>
    obtain hslot | hdiscard := h c hc
    · obtain ⟨k, hk⟩ := Option.isSome_iff_exists.mp hslot
      simp [State.currentTags, hc, hk]
    · simp [State.currentTags, hc, hdiscard]

theorem State.balancedWith_launch {p : Port} {r : Request} {rest : List Request} {c : Current}
    (hs : s.balancedWith recs) (head : (s.port p).requests = r :: rest) (credit : (s.port p).creditFree = true)
    (idle : s.scheduler.current = none) (key : c.key = (p, none, r.tag, false)) :
    ((s.modPort p PortUnit.takeHead).setCurrent (some c)).balancedWith recs := fun i => by
  obtain ⟨hcredits, hroom, hqueue⟩ := State.balance_takeHead hs head credit i
  obtain ⟨-, -, -, hpolls⟩ := hs i
  refine ⟨?_, hroom, hqueue, hpolls⟩
  rw [State.port_setCurrent, hcredits, State.currentTags_eq_nil idle, State.currentTags_launch (c := c) rfl key]
  change _ = (s.pollTags i).length + _ + _
  by_cases h : i = p
  · simp [h]; omega
  · simp [h]

theorem State.tagsDiffer_launch {p : Port} {r : Request} {rest : List Request} {c : Current} (hs : s.tagsDiffer)
    (head : (s.port p).requests = r :: rest) (idle : s.scheduler.current = none)
    (key : c.key = (p, none, r.tag, false)) :
    ((s.modPort p PortUnit.takeHead).setCurrent (some c)).tagsDiffer := by
  refine State.tagsDiffer_of_subperm (fun i => List.Perm.subperm ?_) hs
  rw [State.outstandingTags_eq, State.outstandingTags_eq, State.port_setCurrent, State.requests_takeHead head,
    State.currentTags_launch (c := c) rfl key, State.currentTags_eq_nil idle, List.append_nil]
  by_cases h : i = p
  · subst h
    simp only [if_true, head, List.map_cons]
    exact List.perm_append_singleton _ _
  · simp only [h, if_false, List.append_nil]
    exact .refl _

/-- A change of the current record that adds and takes no tag. -/
theorem State.sameTags_setCurrent {c : Option Current} {i : Port}
    (h : (s.setCurrent c).currentTags i = s.currentTags i) (hs : s.balancedWith recs) :
    ((s.setCurrent c).port i).credits = ((s.setCurrent c).pollTags i).length
        + ((s.setCurrent c).currentTags i).length + (recordsFor recs i).length
      ∧ ((s.setCurrent c).port i).completions.length + ((s.setCurrent c).port i).credits ≤ 8
      ∧ ((s.setCurrent c).port i).requests.length ≤ 8 ∧ ((s.setCurrent c).pollTags i).length ≤ 3 := by
  rw [h]
  exact hs i

theorem State.balancedWith_endPoll {k : SlotNo} {q : Poll} (hs : s.balancedWith recs) (parked : s.poll k = some q)
    (rec : Completion) : (s.setPoll k none).balancedWith (recs ++ [(q.port, rec)]) := fun i => by
  obtain ⟨hcredits, hroom, hqueue, hpolls⟩ := hs i
  have hlen := (State.pollTags_setPoll_none parked i).length_eq
  rw [List.length_append] at hlen
  refine ⟨?_, hroom, hqueue, by omega⟩
  rw [State.port_setPoll, hcredits, hlen, length_recordsFor_snoc]
  change _ = _ + (s.currentTags i).length + _
  by_cases h : i = q.port
  · simp [h]; omega
  · simp [h, Ne.symm h]

theorem State.tagsDiffer_endPoll (k : SlotNo) (hs : s.tagsDiffer) : (s.setPoll k none).tagsDiffer := by
  refine State.tagsDiffer_of_sublists (s := s) (fun _ => .refl _) (fun i => State.pollTags_sublist (fun j => ?_) i)
    (fun _ => .refl _) hs
  rw [State.poll_setPoll]
  split
  · exact .inl rfl
  · exact .inr rfl

theorem State.balancedWith_judge (hs : s.balancedWith recs) :
    (s.mapPolls s.judgedSlot).balancedWith (recs ++ s.pollEnds) := fun i => by
  obtain ⟨hcredits, hroom, hqueue, hpolls⟩ := hs i
  have hlen := s.length_pollTags_judged i
  rw [State.port_mapPolls, recordsFor_append, List.length_append]
  have hcur : (s.mapPolls s.judgedSlot).currentTags i = s.currentTags i := by simp [State.currentTags]
  rw [hcur]
  exact ⟨by omega, hroom, hqueue, by omega⟩

theorem State.tagsDiffer_judge (hs : s.tagsDiffer) : (s.mapPolls s.judgedSlot).tagsDiffer :=
  State.tagsDiffer_of_sublists (fun i => by simp)
    (fun i => State.pollTags_sublist (fun k => by rw [State.poll_mapPolls]; exact s.key_judgedSlot _) i)
    (fun i => by simp [State.currentTags]) hs

/-- What appending leaves of the polls and of the bus. -/
theorem State.tags_append (s : State) (recs : List (Port × Completion)) (i : Port) :
    (s.append recs).pollTags i = s.pollTags i ∧ (s.append recs).currentTags i = s.currentTags i := by
  rw [State.append_eq]
  exact ⟨rfl, rfl⟩

theorem State.balancedWith_append (hs : s.balancedWith recs) : (s.append recs).balancedWith [] := fun i => by
  obtain ⟨hcredits, hroom, hqueue, hpolls⟩ := hs i
  obtain ⟨hp, hc⟩ := s.tags_append recs i
  rw [hp, hc, State.port_append]
  refine ⟨by simp only [recordsFor_nil, List.length_nil]; omega, ?_, hqueue, hpolls⟩
  simp only [List.length_append, length_arrange]
  omega

theorem State.tagsDiffer_append (hs : s.tagsDiffer) : (s.append recs).tagsDiffer :=
  State.tagsDiffer_of_sublists (fun i => by simp) (fun i => by rw [(s.tags_append recs i).1])
    (fun i => by rw [(s.tags_append recs i).2]) hs

theorem State.balancedWith_finish {c : Current} (hs : s.balancedWith recs) (current : s.scheduler.current = some c)
    (slot : c.slot = none) (kept : c.discard = false) (rec : Completion) :
    (s.setCurrent none).balancedWith (recs ++ [(c.port, rec)]) := fun i => by
  obtain ⟨hcredits, hroom, hqueue, hpolls⟩ := hs i
  refine ⟨?_, hroom, hqueue, hpolls⟩
  rw [State.port_setCurrent, hcredits, State.currentTags_launch current (by rw [Current.key, slot, kept]),
    State.currentTags_eq_nil (s := s.setCurrent none) rfl, length_recordsFor_snoc]
  change _ = (s.pollTags i).length + _ + _
  by_cases h : i = c.port
  · simp [h]; omega
  · simp [h]

theorem State.tagsDiffer_setCurrent {c : Option Current} (h : ∀ i, (s.setCurrent c).currentTags i = [])
    (hs : s.tagsDiffer) : (s.setCurrent c).tagsDiffer :=
  State.tagsDiffer_of_sublists (s := s) (fun _ => .refl _) (fun _ => .refl _)
    (fun i => by rw [h i]; exact List.nil_sublist _) hs

/-- The polls and the transaction of a port after the first part of a HOLD (R48, R101). -/
theorem State.tags_beginHold (s : State) (t : Port) (o : HoldOrigin) (i : Port) :
    (s.beginHold t o).pollTags i = (if i = t then [] else s.pollTags i)
      ∧ (s.beginHold t o).currentTags i = if i = t then [] else s.currentTags i := by
  constructor
  · unfold State.pollTags
    simp only [State.poll_beginHold]
    have hslot (k : SlotNo) : pollTag i ((s.poll k).filter fun q => q.port ≠ t)
        = if i = t then none else pollTag i (s.poll k) := by
      cases s.poll k with
      | none => simp [pollTag]
      | some q => by_cases hq : q.port = t <;> by_cases hi : i = t <;> simp [pollTag, Option.filter, hq, hi]
                  all_goals exact fun h => absurd h.symm hi
    simp only [hslot]
    split
    · simp
    · rfl
  · have hcur : (s.beginHold t o).scheduler.current
        = s.scheduler.current.map fun x => if x.port = t then { x with discard := true } else x := rfl
    unfold State.currentTags
    rw [hcur]
    cases s.scheduler.current with
    | none => simp
    | some c =>
      by_cases hc : c.port = t <;> by_cases hi : i = t <;> simp [hc, hi]
      exact fun h => absurd h.symm hi

theorem State.balancedWith_beginHold (t : Port) (o : HoldOrigin) (hs : s.balancedWith []) :
    (s.beginHold t o).balancedWith [] := fun i => by
  obtain ⟨hp, hc⟩ := s.tags_beginHold t o i
  rw [hp, hc, State.port_beginHold]
  by_cases h : i = t
  · simp [h, PortUnit.hold]
  · simpa only [if_neg h] using hs i

theorem State.tagsDiffer_beginHold (t : Port) (o : HoldOrigin) (hs : s.tagsDiffer) : (s.beginHold t o).tagsDiffer := by
  refine State.tagsDiffer_of_sublists (fun i => ?_) (fun i => ?_) (fun i => ?_) hs
  · rw [State.port_beginHold]; split
    · exact List.nil_sublist _
    · exact .refl _
  · rw [(s.tags_beginHold t o i).1]; split
    · exact List.nil_sublist _
    · exact .refl _
  · rw [(s.tags_beginHold t o i).2]; split
    · exact List.nil_sublist _
    · exact .refl _

end

/-- A write notice leaves queues and credits (R153). -/
theorem State.writeNotice_work (s : State) (e : EntryNo) (writer p : Port) :
    ((s.writeNotice e writer).port p).requests = (s.port p).requests
      ∧ ((s.writeNotice e writer).port p).completions = (s.port p).completions
      ∧ ((s.writeNotice e writer).port p).credits = (s.port p).credits := by
  cases hx : s.entry e with
  | none => simp [State.writeNotice, hx]
  | some x =>
    rw [State.port_writeNotice hx]
    split
    · rw [PortUnit.notice, PortUnit.raise_eq]; exact ⟨rfl, rfl, rfl⟩
    · exact ⟨rfl, rfl, rfl⟩

/-! ### Every act -/

/-- Every act keeps the balance of credits, and every act keeps tags different. -/
theorem Act.work {sound : Prop} (hsound : sound) {m m' : Midway} (h : Act sound m m') :
    (m.state.balancedWith m.recs → m'.state.balancedWith m'.recs) ∧ (m.state.tagsDiffer → m'.state.tagsDiffer) := by
  have same {s t : State} {recs : List (Port × Completion)} (hw : s.sameWork t) :
      (s.balancedWith recs → t.balancedWith recs) ∧ (s.tagsDiffer → t.tagsDiffer) := ⟨hw.balancedWith, hw.tagsDiffer⟩
  have untagged {s : State} {recs : List (Port × Completion)} {c : Option Current}
      (h : ∀ i, (s.setCurrent c).currentTags i = []) (hs : ∀ i, s.currentTags i = []) :
      (s.balancedWith recs → (s.setCurrent c).balancedWith recs) ∧ (s.tagsDiffer → (s.setCurrent c).tagsDiffer) :=
    ⟨fun hb i => State.sameTags_setCurrent ((h i).trans (hs i).symm) hb, State.tagsDiffer_setCurrent h⟩
  cases h with
  | restart s cause high =>
    exact ⟨fun _ => State.balancedWith_nil.mpr (s.creditsBalance_restart cause high),
      fun _ => s.tagsDiffer_restart cause high⟩
  | enqueue p r run active room tag =>
    exact ⟨fun hs => State.balancedWith_enqueue hs room, fun hs => State.tagsDiffer_enqueue hs tag⟩
  | fetch p =>
    exact ⟨State.balancedWith_fetch p, State.tagsDiffer_of_sublists
      (fun i => by rw [State.port_modPort]; split <;> exact .refl _) (fun _ => .refl _) fun _ => .refl _⟩
  | unqueue p tag => exact ⟨State.balancedWith_unqueue p tag, State.tagsDiffer_unqueue p tag⟩
  | take head credit rec => exact ⟨fun hs => State.balancedWith_take hs head credit rec, State.tagsDiffer_take⟩
  | park head credit free room key =>
    exact ⟨fun hs => State.balancedWith_park hs head credit free room key,
      fun hs => State.tagsDiffer_park hs head free key⟩
  | launch head credit idle key =>
    exact ⟨fun hs => State.balancedWith_launch hs head credit (idle hsound) key,
      fun hs => State.tagsDiffer_launch hs head (idle hsound) key⟩
  | serve parked idle slot port =>
    refine untagged (fun i => State.currentTags_recordless (fun c hc => ?_) i) (State.currentTags_eq_nil (idle hsound))
    cases hc
    exact .inl slot
  | endPoll parked rec =>
    exact ⟨fun hs => State.balancedWith_endPoll hs parked rec, State.tagsDiffer_endPoll _⟩
  | judge s recs held => exact ⟨State.balancedWith_judge, State.tagsDiffer_judge⟩
  | append s recs held => exact ⟨State.balancedWith_append, State.tagsDiffer_append⟩
  | clear noRecord => exact untagged (State.currentTags_eq_nil rfl) (State.currentTags_recordless noRecord)
  | finish current slot kept rec =>
    exact ⟨fun hs => State.balancedWith_finish hs current slot kept rec,
      State.tagsDiffer_setCurrent (State.currentTags_eq_nil rfl)⟩
  | hold loaded active => exact ⟨State.balancedWith_beginHold _ _, State.tagsDiffer_beginHold _ _⟩
  | ports frame kept =>
    exact same ⟨fun p => (kept p).requests, fun p => (kept p).completions, fun p => (kept p).credits,
      fun k => by rw [frame]; rfl, by rw [frame]⟩
  | polls frame key =>
    exact same ⟨fun p => by rw [frame]; rfl, fun p => by rw [frame]; rfl, fun p => by rw [frame]; rfl, key,
      by rw [frame]⟩
  | outside frame | entries frame =>
    exact same ⟨fun p => by rw [frame]; rfl, fun p => by rw [frame]; rfl, fun p => by rw [frame]; rfl,
      fun k => by rw [frame]; rfl, by rw [frame]⟩
  | mark key => exact same ⟨fun _ => rfl, fun _ => rfl, fun _ => rfl, fun _ => rfl, key⟩
  | turn | fill | empty | runs | held => exact same ⟨fun _ => rfl, fun _ => rfl, fun _ => rfl, fun _ => rfl, rfl⟩
  | release t =>
    refine same ⟨fun p => ?_, fun p => ?_, fun p => ?_, fun _ => rfl, rfl⟩
    all_goals rw [State.port_modPort]; split <;> rfl
  | @notice s recs e writer run =>
    have hport := s.writeNotice_work e writer
    exact same ⟨fun p => (hport p).1, fun p => (hport p).2.1, fun p => (hport p).2.2,
      fun k => by rw [State.writeNotice_eq]; rfl, by rw [State.writeNotice_eq]⟩
  | loadFault f =>
    refine same ⟨fun p => ?_, fun p => ?_, fun p => ?_, fun k => by simp [State.loadFault, State.poll, State.raiseAll,
      State.raiseIn], by simp [State.loadFault, State.raiseAll, State.raiseIn]⟩
    all_goals rw [State.port_loadFault, PortUnit.raise_eq]; rfl
  | commit valid =>
    refine same ⟨fun p => ?_, fun p => ?_, fun p => ?_, fun k => by simp [State.commit, State.poll],
      by simp [State.commit]⟩
    all_goals rw [State.port_commit]; rfl

end Sys2Proof.Machine

/-! SUPPORT. The quiet outside RUN, and the bareness of idle ports and of LOADING, through every act. -/

namespace Sys2Proof.Machine

/-! ### The quiet outside RUN -/

/-- What R47, R49 and R157 ask of a port outside RUN. -/
structure PortUnit.quiet (u : PortUnit) : Prop where
  requests : u.requests = []
  completions : u.completions = []
  credits : u.credits = 0
  deferral : u.deferral = none
  mark : u.lockedMark = false
  changed : u.notify.changed = 0#32

/-- What holds of the part outside RUN (R17, R47, R49, R83, R102, R157). -/
structure State.quiet (s : State) : Prop where
  port : ∀ p, (s.port p).quiet
  polls : ∀ k, s.poll k = none
  current : s.scheduler.current = none
  turn : s.scheduler.turn = .poll
  entries : ∀ e, ((s.entry e).all Entry.untouched) = true

theorem State.quietOutsideRun_iff {s : State} : s.quietOutsideRun ↔ (s.phase ≠ .run → s.quiet) := by
  refine imp_congr_right fun _ => ⟨fun ⟨hp, hk, hc, ht, he⟩ => ⟨fun p => ?_, hk, hc, ht, he⟩,
    fun h => ⟨fun p => ?_, h.polls, h.current, h.turn, h.entries⟩⟩
  · obtain ⟨hr, hco, hcr, hd, hm, hch⟩ := hp p
    exact ⟨hr, hco, hcr, hd, hm, hch⟩
  · obtain ⟨hr, hco, hcr, hd, hm, hch⟩ := h.port p
    exact ⟨hr, hco, hcr, hd, hm, hch⟩

/-- Midway through a command too the part is quiet outside RUN, and no record is to join. -/
def Midway.quiet (m : Midway) : Prop := m.state.phase ≠ .run → m.state.quiet ∧ m.recs = []

theorem PortUnit.keptIn.quiet {loading : Prop} {u v : PortUnit} (h : u.keptIn loading v) (hu : u.quiet) : v.quiet :=
  ⟨h.requests.trans hu.requests, h.completions.trans hu.completions, h.credits.trans hu.credits,
    h.deferral hu.requests hu.deferral, h.mark hu.requests hu.mark, h.changed hu.changed⟩

theorem State.pollEnds_eq_nil {s : State} (h : ∀ k, s.poll k = none) : s.pollEnds = [] := by
  simp [State.pollEnds, h, State.judgedRecord]

/-- Every act keeps the part quiet outside RUN. -/
theorem Act.quiet {sound : Prop} (hsound : sound) {m m' : Midway} (h : Act sound m m') (hm : m.quiet) : m'.quiet := by
  have empty {s : State} {p : Port} {r : Request} {rest : List Request} {recs : List (Port × Completion)}
      {P : Prop} (hs : s.phase ≠ .run → s.quiet ∧ recs = []) (hp : s.phase ≠ .run)
      (head : (s.port p).requests = r :: rest) : P := by
    have := (hs hp).1.port p |>.requests
    rw [head] at this
    cases this
  have unchanged {s t : State} (hs : s.quiet) (hport : ∀ p, t.port p = s.port p) (hsched : t.scheduler = s.scheduler)
      (hentry : ∀ e, t.entry e = s.entry e) : t.quiet :=
    ⟨fun p => by rw [hport p]; exact hs.port p, fun k => by unfold State.poll; rw [hsched]; exact hs.polls k,
      by rw [hsched]; exact hs.current, by rw [hsched]; exact hs.turn, fun e => by rw [hentry e]; exact hs.entries e⟩
  intro hp
  cases h with
  | restart s cause high => exact ⟨State.quietOutsideRun_iff.mp (s.quietOutsideRun_restart cause high) hp, rfl⟩
  | @outside s t _ _ frame step =>
    obtain ⟨hs, hrecs⟩ := hm (by rw [frame] at hp; exact hp)
    exact ⟨unchanged hs (fun p => by rw [frame]; rfl) (by rw [frame]) fun e => by rw [frame]; rfl, hrecs⟩
  | turn pos run => exact absurd run hp
  | @ports s t _ _ frame kept =>
    obtain ⟨hs, hrecs⟩ := hm (by rw [frame] at hp; exact hp)
    refine ⟨⟨fun p => (kept p).quiet (hs.port p), fun k => ?_, ?_, ?_, fun e => ?_⟩, hrecs⟩
    · rw [frame]; exact hs.polls k
    · rw [frame]; exact hs.current
    · rw [frame]; exact hs.turn
    · rw [frame]; exact hs.entries e
  | @notice s _ e writer run => exact absurd (run hsound) (by rw [State.writeNotice_eq] at hp; exact hp)
  | enqueue p r run => exact absurd run hp
  | fetch p =>
    obtain ⟨hs, hrecs⟩ := hm hp
    refine ⟨⟨fun i => ?_, hs.polls, hs.current, hs.turn, hs.entries⟩, hrecs⟩
    obtain ⟨hr, hco, hcr, hd, hmark, hch⟩ := hs.port i
    rw [State.port_modPort]
    split
    · exact ⟨hr, by simp [hco], hcr, hd, hmark, hch⟩
    · exact ⟨hr, hco, hcr, hd, hmark, hch⟩
  | unqueue p tag run => exact absurd run hp
  | take head => exact empty hm hp head
  | park head => exact empty hm hp head
  | launch head => exact empty hm hp head
  | @serve _ _ _ k _ _ parked => rw [(hm hp).1.polls k] at parked; cases parked
  | @polls s t _ _ frame key =>
    obtain ⟨hs, hrecs⟩ := hm (by rw [frame] at hp; exact hp)
    refine ⟨⟨fun p => by rw [frame]; exact hs.port p, fun k => ?_, by rw [frame]; exact hs.current,
      by rw [frame]; exact hs.turn, fun e => by rw [frame]; exact hs.entries e⟩, hrecs⟩
    have := key k
    rw [hs.polls k] at this
    simpa using this
  | @endPoll _ _ _ k _ parked => rw [(hm hp).1.polls k] at parked; cases parked
  | judge s recs held =>
    rw [State.phase_mapPolls] at hp
    obtain ⟨hs, hrecs⟩ := hm hp
    refine ⟨⟨fun p => ?_, fun k => ?_, hs.current, hs.turn, fun e => ?_⟩, ?_⟩
    · rw [State.port_mapPolls]; exact hs.port p
    · rw [State.poll_mapPolls, hs.polls k]; rfl
    · rw [State.entry_mapPolls]; exact hs.entries e
    · rw [State.pollEnds_eq_nil hs.polls]; simpa using hrecs
  | append s recs held =>
    obtain ⟨hs, hrecs⟩ := hm (by rw [State.append_eq] at hp; exact hp)
    obtain rfl : recs = [] := hrecs
    refine ⟨unchanged hs (fun p => by simp) (by rw [State.append_eq]) fun e => by rw [State.append_eq]; rfl, rfl⟩
  | clear =>
    obtain ⟨hs, hrecs⟩ := hm hp
    exact ⟨⟨hs.port, hs.polls, rfl, hs.turn, hs.entries⟩, hrecs⟩
  | finish current => rw [(hm hp).1.current] at current; cases current
  | mark key =>
    obtain ⟨hs, hrecs⟩ := hm hp
    rw [hs.current] at key
    exact ⟨⟨hs.port, hs.polls, by simpa using key, hs.turn, hs.entries⟩, hrecs⟩
  | @entries s t _ _ frame kept =>
    have hp' : s.phase ≠ .run := by rw [frame] at hp; exact hp
    obtain ⟨hs, hrecs⟩ := hm hp'
    refine ⟨⟨fun p => by rw [frame]; exact hs.port p, fun k => by rw [frame]; exact hs.polls k,
      by rw [frame]; exact hs.current, by rw [frame]; exact hs.turn, fun e => ?_⟩, hrecs⟩
    cases hy : t.entry e with
    | none => rfl
    | some y =>
      obtain ⟨x, hx, hk⟩ := exists_of_rel (kept e) hy
      have hold := hs.entries e
      rw [hx] at hold
      exact hk.untouched hsound hp' hold
  | fill config valid untouched =>
    obtain ⟨hs, hrecs⟩ := hm hp
    refine ⟨⟨hs.port, hs.polls, hs.current, hs.turn, fun i => ?_⟩, hrecs⟩
    rw [State.entry_setEntry]
    split
    · exact untouched
    · exact hs.entries i
  | empty e =>
    obtain ⟨hs, hrecs⟩ := hm hp
    refine ⟨⟨hs.port, hs.polls, hs.current, hs.turn, fun i => ?_⟩, hrecs⟩
    rw [State.entry_setEntry]
    split
    · rfl
    · exact hs.entries i
  | runs => exact absurd rfl hp
  | @hold s t o loaded active =>
    obtain ⟨hs, -⟩ := hm hp
    refine ⟨⟨fun p => ?_, fun k => ?_, ?_, hs.turn, hs.entries⟩, rfl⟩
    · rw [State.port_beginHold]
      split
      · exact ⟨rfl, rfl, rfl, rfl, rfl, rfl⟩
      · exact hs.port p
    · rw [State.poll_beginHold, hs.polls k]; rfl
    · change s.scheduler.current.map _ = none
      rw [hs.current]; rfl
  | held => exact hm hp
  | release t =>
    obtain ⟨hs, hrecs⟩ := hm hp
    refine ⟨⟨fun i => ?_, hs.polls, hs.current, hs.turn, hs.entries⟩, hrecs⟩
    obtain ⟨hr, hco, hcr, hd, hmark, hch⟩ := hs.port i
    rw [State.port_modPort]
    split <;> exact ⟨hr, hco, hcr, hd, hmark, hch⟩
  | @loadFault s f loading =>
    obtain ⟨hs, -⟩ := hm (by rw [loading hsound]; simp)
    have heq : (s.loadFault f).scheduler = s.scheduler := by simp [State.loadFault, State.raiseAll, State.raiseIn]
    refine ⟨⟨fun p => ?_, fun k => ?_, by rw [heq]; exact hs.current, by rw [heq]; exact hs.turn, fun e => ?_⟩, rfl⟩
    · obtain ⟨hr, hco, hcr, hd, hmark, hch⟩ := hs.port p
      rw [State.port_loadFault, PortUnit.raise_eq, PortUnit.notify_raise]
      exact ⟨hr, hco, hcr, hd, hmark, rfl⟩
    · unfold State.poll; rw [heq]; exact hs.polls k
    · simp [State.loadFault, State.entry, State.raiseAll, State.raiseIn]
  | @commit s valid loading =>
    obtain ⟨hs, -⟩ := hm (by rw [loading hsound]; simp)
    have heq : s.commit.scheduler = s.scheduler := by simp [State.commit]
    refine ⟨⟨fun p => ?_, fun k => ?_, by rw [heq]; exact hs.current, by rw [heq]; exact hs.turn, fun e => ?_⟩, rfl⟩
    · obtain ⟨hr, hco, hcr, hd, hmark, hch⟩ := hs.port p
      rw [State.port_commit]
      exact ⟨hr, hco, hcr, hd, hmark, rfl⟩
    · unfold State.poll; rw [heq]; exact hs.polls k
    · rw [State.entry_commit]
      cases hx : listedEntry s.loader.staging e with
      | none => rfl
      | some x =>
        obtain ⟨r, -, -, rfl⟩ := listedEntry_eq_some hx
        exact r.untouched_toEntry

end Sys2Proof.Machine

/-! SUPPORT. The bareness of idle ports and of LOADING through every act. -/

namespace Sys2Proof.Machine

/-! ### Idle ports, midway through a command -/

/-- What a port that is HELD or OFFLINE has in its own unit (R48, R144, R147, R153). -/
structure PortUnit.bare (u : PortUnit) : Prop where
  requests : u.requests = []
  completions : u.completions = []
  credits : u.credits = 0
  deferral : u.deferral = none
  mark : u.lockedMark = false
  flags : u.notify.flags = 0#10
  mask : u.notify.mask = 0#10
  changed : u.notify.changed = 0#32

/-- Port `p` has a poll, a transaction that is not to be discarded, or a record that is to join. -/
def Midway.uses (m : Midway) (p : Port) : Prop :=
  (∃ k q, m.state.poll k = some q ∧ q.port = p)
    ∨ (∃ c, m.state.scheduler.current = some c ∧ c.port = p ∧ c.discard = false) ∨ ∃ rec, (p, rec) ∈ m.recs

/-- Port `p` owns an entry's lock, or watches one. -/
def State.names (s : State) (p : Port) : Prop :=
  ∃ e x, s.entry e = some x ∧ (x.owner = some p ∨ hasBit x.watchSet p = true)

/-- Midway through a command: LOADING is bare, and idle ports are, but for the locks and watches of a port under HOLD.
-/
structure Midway.orderly (m : Midway) : Prop where
  loading : m.state.loadingIsBare
  bare : ∀ p, (m.state.port p).state ≠ .active → (m.state.port p).bare
  unused : ∀ p, (m.state.port p).state ≠ .active → ¬ m.uses p
  unnamed : ∀ p, (m.state.port p).state ≠ .active → m.holding ≠ some p → ¬ m.state.names p
  origin : ∀ p, (m.state.port p).origin.isSome = true ↔ (m.state.port p).state = .held
  frame : ∀ p, (m.state.port p).state = .offline → ∀ f, (m.state.port p).frame ≠ .opened f

theorem State.unnamed_iff {s : State} {p : Port} : s.unnamed p ↔ ¬ s.names p := by
  simp only [State.unnamed, State.names, Option.any_eq_false, Bool.or_eq_false_iff, decide_eq_false_iff_not,
    not_exists, not_and, not_or, Bool.not_eq_true]

/-- At the ends of a command that is what the statement says of idle ports. -/
theorem Midway.orderly_iff {s : State} :
    (⟨s, [], none⟩ : Midway).orderly ↔ s.loadingIsBare ∧ s.idlePortsBare := by
  have huses (p : Port) : ¬ (⟨s, [], none⟩ : Midway).uses p ↔ (∀ k, ((s.poll k).any fun q => q.port = p) = false)
      ∧ (s.scheduler.current.any fun c => c.port = p && !c.discard) = false := by
    simp [Midway.uses, not_or, Option.any_eq_false]
  constructor
  · intro h
    refine ⟨h.loading, fun p => ⟨fun hp => ?_, h.origin p, h.frame p⟩⟩
    obtain ⟨hr, hco, hcr, hd, hm, hf, hmask, hch⟩ := h.bare p hp
    obtain ⟨hpolls, hcur⟩ := (huses p).mp (h.unused p hp)
    exact ⟨hr, hco, hcr, hd, hm, hf, hmask, hch, hpolls, State.unnamed_iff.mpr (h.unnamed p hp (by simp)), hcur⟩
  · rintro ⟨hl, hi⟩
    refine ⟨hl, fun p hp => ?_, fun p hp => ?_, fun p hp _ => ?_, fun p => (hi p).2.1, fun p => (hi p).2.2⟩ <;>
      obtain ⟨hr, hco, hcr, hd, hm, hf, hmask, hch, hpolls, hnames, hcur⟩ := (hi p).1 hp
    · exact ⟨hr, hco, hcr, hd, hm, hf, hmask, hch⟩
    · exact (huses p).mpr ⟨hpolls, hcur⟩
    · exact State.unnamed_iff.mp hnames

/-! ### What an act must keep of a port -/

/-- A port goes on from `u` to `v` without a change of standing, and without taking anything on while it is idle. -/
structure PortUnit.goesOn (loading : Prop) (u v : PortUnit) : Prop where
  standing : v.standing = u.standing
  bare : u.state ≠ .active → u.bare → v.bare
  flags : loading → u.notify.flags = 0#10 → v.notify.flags = 0#10
  mask : loading → u.notify.mask = 0#10 → v.notify.mask = 0#10
  frame : u.state = .offline → (∀ f, u.frame ≠ .opened f) → ∀ f, v.frame ≠ .opened f

theorem PortUnit.goesOn_refl (loading : Prop) (u : PortUnit) : u.goesOn loading u :=
  ⟨rfl, fun _ => id, fun _ => id, fun _ => id, fun _ => id⟩

theorem PortUnit.keptIn.goesOn {loading : Prop} {u v : PortUnit} (h : u.keptIn loading v) : u.goesOn loading v := by
  refine ⟨h.standing, fun hu hb => ?_, fun hl => h.flags (.inr hl), fun hl hm => (h.mask (.inr hl)).trans hm, h.frame⟩
  obtain ⟨hr, hco, hcr, hd, hm, hf, hmask, hch⟩ := hb
  exact ⟨h.requests.trans hr, h.completions.trans hco, h.credits.trans hcr, h.deferral hr hd, h.mark hr hm,
    h.flags (.inl hu) hf, (h.mask (.inl hu)).trans hmask, h.changed hch⟩

/-- An ACTIVE port may take on what it will, but for flags and mask. -/
theorem PortUnit.goesOn_active {u v : PortUnit} (loading : Prop) (hs : v.standing = u.standing)
    (hn : v.notify = u.notify) (ha : u.state = .active) : u.goesOn loading v :=
  ⟨hs, fun h => absurd ha h, fun _ hf => by rw [hn]; exact hf, fun _ hf => by rw [hn]; exact hf,
    fun h => by rw [ha] at h; cases h⟩

/-- The state and the origin are part of the standing. -/
theorem PortUnit.standing_eq {u v : PortUnit} (h : v.standing = u.standing) :
    v.state = u.state ∧ v.level = u.level ∧ v.origin = u.origin := by
  simpa only [PortUnit.standing, Prod.mk.injEq] using h

/-- An act that moves no port's standing, nor the phase, keeps idle ports and LOADING bare when nobody idle is given
anything. -/
theorem Midway.orderly_of {m m' : Midway} (hm : m.orderly) (hphase : m'.state.phase = m.state.phase)
    (hstep : m'.state.loader.step = m.state.loader.step) (hholding : m'.holding = m.holding)
    (hport : ∀ p, (m.state.port p).goesOn (m.state.phase = .loading) (m'.state.port p))
    (huses : ∀ p, m'.uses p → (m.state.port p).state = .active ∨ m.uses p)
    (hnames : ∀ p, m'.state.names p → (m.state.port p).state = .active ∨ m.state.names p)
    (hempty : m.state.phase = .loading → ∀ e, m.state.entry e = none → m'.state.entry e = none) : m'.orderly := by
  have hst (p : Port) := PortUnit.standing_eq (hport p).standing
  obtain ⟨hiff, hbare⟩ := hm.loading
  refine ⟨⟨by rw [hphase, hstep]; exact hiff, fun hl => ?_⟩, fun p hp => ?_, fun p hp hu => ?_, fun p hp hh hn => ?_,
    fun p => ?_, fun p hp => ?_⟩
  · rw [hphase] at hl
    obtain ⟨hentries, hports⟩ := hbare hl
    refine ⟨fun e => hempty hl e (hentries e), fun p => ?_⟩
    obtain ⟨hs, hlev, ho, hf, hmk⟩ := hports p
    obtain ⟨hs', hl', ho'⟩ := hst p
    exact ⟨hs'.trans hs, hl'.trans hlev, ho'.trans ho, (hport p).flags hl hf, (hport p).mask hl hmk⟩
  · rw [(hst p).1] at hp
    exact (hport p).bare hp (hm.bare p hp)
  · rw [(hst p).1] at hp
    exact (huses p hu).elim hp (hm.unused p hp)
  · rw [(hst p).1] at hp
    rw [hholding] at hh
    exact (hnames p hn).elim hp (hm.unnamed p hp hh)
  · rw [(hst p).1, (hst p).2.2]; exact hm.origin p
  · rw [(hst p).1] at hp
    exact (hport p).frame hp (hm.frame p hp)

/-- A port with a request queued is ACTIVE. -/
theorem Midway.orderly.active {m : Midway} (hm : m.orderly) {p : Port} (h : (m.state.port p).requests ≠ []) :
    (m.state.port p).state = .active :=
  by_contra fun hp => h (hm.bare p hp).requests

theorem Midway.orderly.active_of_engaged {m : Midway} (hm : m.orderly) {p : Port} (h : m.state.engaged p) :
    (m.state.port p).state = .active := h.elim id hm.active

/-- In LOADING no slot is occupied, so that outside it a port may be named. -/
theorem State.names_congr {s t : State} (h : ∀ e, t.entry e = s.entry e) {p : Port} (hn : t.names p) : s.names p := by
  obtain ⟨e, x, hx, hp⟩ := hn
  exact ⟨e, x, by rw [← h e, hx], hp⟩

theorem Midway.uses_congr {s t : State} {recs : List (Port × Completion)} {held held' : Option Port}
    (hpoll : ∀ k, t.poll k = s.poll k) (hcur : t.scheduler.current = s.scheduler.current) {p : Port}
    (hu : (⟨t, recs, held'⟩ : Midway).uses p) : (⟨s, recs, held⟩ : Midway).uses p := by
  obtain ⟨k, q, hq, hp⟩ | ⟨c, hc, hp⟩ | hr := hu
  · exact .inl ⟨k, q, (hpoll k).symm.trans hq, hp⟩
  · exact .inr (.inl ⟨c, hcur.symm.trans hc, hp⟩)
  · exact .inr (.inr hr)

/-! ### Act by act -/

section
variable {s : State} {recs : List (Port × Completion)} {held : Option Port}

/-- An act that changes one ACTIVE port, but for its flags and mask, and nothing else. -/
theorem Midway.orderly_modPort (hm : (⟨s, recs, held⟩ : Midway).orderly) {p : Port} {f : PortUnit → PortUnit}
    (ha : (s.port p).state = .active) (hs : (f (s.port p)).standing = (s.port p).standing)
    (hn : (f (s.port p)).notify = (s.port p).notify) : (⟨s.modPort p f, recs, held⟩ : Midway).orderly := by
  refine Midway.orderly_of hm rfl rfl rfl (fun i => ?_) (fun i => .inr) (fun i => .inr) fun _ _ => id
  rw [State.port_modPort]
  split
  next h => subst h; exact PortUnit.goesOn_active _ hs hn ha
  next => exact PortUnit.goesOn_refl _ _

/-- A head that is taken, and something new that its port uses. -/
theorem Midway.orderly_takeHead (hm : (⟨s, recs, held⟩ : Midway).orderly) {p : Port} {r : Request}
    {rest : List Request} (head : (s.port p).requests = r :: rest) :
    (s.port p).state = .active ∧ (⟨s.modPort p PortUnit.takeHead, recs, held⟩ : Midway).orderly := by
  have ha : (s.port p).state = .active := hm.active (by rw [head]; simp)
  exact ⟨ha, Midway.orderly_modPort hm ha rfl rfl⟩

/-- What is used anew is an ACTIVE port's. -/
theorem Midway.orderly_uses {t : State} {recs' : List (Port × Completion)} (hm : (⟨s, recs, held⟩ : Midway).orderly)
    (hframe : t = { s with scheduler := t.scheduler })
    (huses : ∀ p, (⟨t, recs', held⟩ : Midway).uses p →
      (s.port p).state = .active ∨ (⟨s, recs, held⟩ : Midway).uses p) : (⟨t, recs', held⟩ : Midway).orderly := by
  have hport (p : Port) : t.port p = s.port p := by rw [hframe]; rfl
  have hentry (e : EntryNo) : t.entry e = s.entry e := by rw [hframe]; rfl
  exact Midway.orderly_of hm (by rw [hframe]) (by rw [hframe]) rfl
    (fun p => by rw [hport p]; exact PortUnit.goesOn_refl _ _) huses (fun p hn => .inr (State.names_congr hentry hn))
    fun _ e he => (hentry e).trans he

theorem Midway.orderly_ports {sound : Prop} (hsound : sound) {t : State} (hm : (⟨s, recs, held⟩ : Midway).orderly)
    (frame : t = { s with ports := t.ports })
    (kept : ∀ p, (s.port p).keptIn (sound ∧ s.blank) (t.port p)) : (⟨t, recs, held⟩ : Midway).orderly := by
  have hentry (e : EntryNo) : t.entry e = s.entry e := by rw [frame]; rfl
  refine Midway.orderly_of hm (by rw [frame]) (by rw [frame]) rfl (fun p => ?_)
    (fun p hu => .inr (Midway.uses_congr (fun k => by rw [frame]; rfl) (by rw [frame]) hu))
    (fun p hn => .inr (State.names_congr hentry hn)) fun _ e he => (hentry e).trans he
  have h := (kept p).goesOn
  have hblank (hl : s.phase = .loading) : sound ∧ s.blank := ⟨hsound, hl, (hm.loading.2 hl).1⟩
  exact ⟨h.standing, h.bare, fun hl => h.flags (hblank hl), fun hl => h.mask (hblank hl), h.frame⟩

theorem Midway.orderly_outside {sound : Prop} (hsound : sound) {t : State} (hm : (⟨s, recs, held⟩ : Midway).orderly)
    (frame : t = { s with
      pending := t.pending, timeBase := t.timeBase, resetn := t.resetn, loader := t.loader, engine := t.engine,
      freeCount := t.freeCount })
    (step : t.loader.step = s.loader.step ∨ (t.loader.step ≠ .finished ∧ (sound → s.phase = .loading))) :
    (⟨t, recs, held⟩ : Midway).orderly := by
  have hport (p : Port) : t.port p = s.port p := by rw [frame]; rfl
  have hentry (e : EntryNo) : t.entry e = s.entry e := by rw [frame]; rfl
  have hphase : t.phase = s.phase := by rw [frame]
  obtain ⟨⟨hiff, hbare⟩, hb, hu, hn, ho, hf⟩ := hm
  simp only at hiff hbare hb hu hn ho hf
  refine ⟨⟨?_, ?_⟩, ?_, ?_, ?_, ?_, ?_⟩ <;> simp only [hport, hentry, hphase]
  · rcases step with hst | ⟨hst, hl⟩
    · rw [hst]; exact hiff
    · exact ⟨fun _ => hst, fun _ => hl hsound⟩
  · exact hbare
  · exact hb
  · exact fun p hp hu' => hu p hp (Midway.uses_congr (fun k => by rw [frame]; rfl) (by rw [frame]) hu')
  · exact fun p hp hh hn' => hn p hp hh (State.names_congr hentry hn')
  · exact ho
  · exact hf

/-- A write notice reaches no idle port, for none watches (R153). -/
theorem Midway.orderly_notice (hm : (⟨s, recs, none⟩ : Midway).orderly) (e : EntryNo) (writer : Port)
    (run : s.phase = .run) : (⟨s.writeNotice e writer, recs, none⟩ : Midway).orderly := by
  have hentry (i : EntryNo) : (s.writeNotice e writer).entry i = s.entry i := by rw [State.writeNotice_eq]; rfl
  refine Midway.orderly_of hm (by rw [State.writeNotice_eq]) (by rw [State.writeNotice_eq]) rfl (fun p => ?_)
    (fun p hu => .inr (Midway.uses_congr (fun k => by rw [State.writeNotice_eq]; rfl)
      (by rw [State.writeNotice_eq]) hu))
    (fun p hn => .inr (State.names_congr hentry hn)) fun _ i hi => (hentry i).trans hi
  have hl {P : Prop} : s.phase = .loading → P := fun h => by rw [run] at h; cases h
  cases hx : s.entry e with
  | none => rw [State.writeNotice, hx]; exact PortUnit.goesOn_refl _ _
  | some x =>
    rw [State.port_writeNotice hx]
    split
    next h =>
      have ha : (s.port p).state = .active :=
        by_contra fun hp => hm.unnamed p hp (by simp) ⟨e, x, hx, .inr h.1⟩
      exact ⟨PortUnit.standing_notice _ _, fun h => absurd ha h, hl, hl, fun h => by rw [ha] at h; cases h⟩
    next => exact PortUnit.goesOn_refl _ _

theorem Midway.orderly_append (hm : (⟨s, recs, held⟩ : Midway).orderly) :
    (⟨s.append recs, [], held⟩ : Midway).orderly := by
  have hentry (i : EntryNo) : (s.append recs).entry i = s.entry i := by rw [State.append_eq]; rfl
  refine Midway.orderly_of hm (by rw [State.append_eq]) (by rw [State.append_eq]) rfl (fun p => ?_) (fun p hu => ?_)
    (fun p hn => .inr (State.names_congr hentry hn)) fun _ i hi => (hentry i).trans hi
  · rw [State.port_append]
    refine ⟨rfl, fun hp hb => ?_, fun _ => id, fun _ => id, fun _ => id⟩
    have hnone : recordsFor recs p = [] := List.eq_nil_iff_forall_not_mem.mpr fun rec hrec =>
      hm.unused p hp (.inr (.inr ⟨rec, mem_recordsFor.mp hrec⟩))
    obtain ⟨hr, hco, hcr, hd, hm', hf, hmask, hch⟩ := hb
    exact ⟨hr, by simp [hco, hnone], by simp [hcr], hd, hm', hf, hmask, hch⟩
  · refine .inr ?_
    obtain h | h | ⟨rec, hrec⟩ := Midway.uses_congr (s := s) (held := held) (fun k => by rw [State.append_eq]; rfl)
      (by rw [State.append_eq]) hu
    · exact .inl h
    · exact .inr (.inl h)
    · cases hrec

theorem Midway.orderly_judge (hm : (⟨s, recs, held⟩ : Midway).orderly) :
    (⟨s.mapPolls s.judgedSlot, recs ++ s.pollEnds, held⟩ : Midway).orderly := by
  refine Midway.orderly_uses hm (by simp [State.mapPolls]) fun p hu => .inr ?_
  obtain ⟨k, q, hq, hp⟩ | ⟨c, hc, hp⟩ | ⟨rec, hrec⟩ := hu
  · simp only [State.poll_mapPolls] at hq
    obtain h | h := s.key_judgedSlot (s.poll k)
    · rw [hq] at h; cases h
    · rw [hq] at h
      obtain ⟨q', hq', hkey⟩ := Option.map_eq_some_iff.mp h.symm
      exact .inl ⟨k, q', hq', (Prod.mk.inj hkey).1.trans hp⟩
  · simp only [State.scheduler_mapPolls] at hc
    exact .inr (.inl ⟨c, hc, hp⟩)
  · rcases List.mem_append.mp hrec with hrec | hrec
    · exact .inr (.inr ⟨rec, hrec⟩)
    · obtain ⟨k, q, st, hq, -, heq⟩ := State.mem_pollEnds.mp hrec
      exact .inl ⟨k, q, hq, (Prod.mk.inj heq).1.symm⟩

/-- New owners and watchers are engaged, and so ACTIVE. -/
theorem Midway.orderly_entries {sound : Prop} {t : State} (hm : (⟨s, recs, held⟩ : Midway).orderly)
    (frame : t = { s with directory := t.directory })
    (kept : ∀ e, Option.Rel (s.entryKept sound) (s.entry e) (t.entry e)) : (⟨t, recs, held⟩ : Midway).orderly := by
  have hport (p : Port) : t.port p = s.port p := by rw [frame]; rfl
  refine Midway.orderly_of hm (by rw [frame]) (by rw [frame]) rfl
    (fun p => by rw [hport p]; exact PortUnit.goesOn_refl _ _)
    (fun p hu => .inr (Midway.uses_congr (fun k => by rw [frame]; rfl) (by rw [frame]) hu)) (fun p hn => ?_)
    fun _ e he => ?_
  · obtain ⟨e, y, hy, hp⟩ := hn
    obtain ⟨x, hx, hk⟩ := exists_of_rel (kept e) hy
    rcases hp with hp | hp
    · exact (hk.owner p hp).elim (fun h => .inr ⟨e, x, hx, .inl h⟩) fun h => .inl (hm.active_of_engaged h)
    · exact (hk.watch p hp).elim (fun h => .inr ⟨e, x, hx, .inr h⟩) fun h => .inl (hm.active_of_engaged h)
  · cases hy : t.entry e with
    | none => rfl
    | some y =>
      obtain ⟨x, hx, -⟩ := exists_of_rel (kept e) hy
      rw [show s.entry e = none from he] at hx
      cases hx

/-- A slot that is filled with an untouched entry, or emptied, names nobody. -/
theorem Midway.orderly_setEntry (hm : (⟨s, recs, held⟩ : Midway).orderly) (e : EntryNo) {o : Option Entry}
    (ho : ∀ x, o = some x → s.phase ≠ .loading ∧ x.owner = none ∧ x.watchSet = 0#4) :
    (⟨s.setEntry e o, recs, held⟩ : Midway).orderly := by
  refine Midway.orderly_of hm rfl rfl rfl (fun p => PortUnit.goesOn_refl _ _) (fun _ => .inr) (fun p hn => ?_)
    fun hl i hi => ?_
  · obtain ⟨i, x, hx, hp⟩ := hn
    rw [State.entry_setEntry] at hx
    split at hx
    · obtain ⟨-, howner, hwatch⟩ := ho x hx
      simp [howner, hwatch] at hp
    · exact .inr ⟨i, x, hx, hp⟩
  · rw [State.entry_setEntry]
    split
    · cases hx : o with
      | none => rfl
      | some x => exact absurd hl (ho x hx).1
    · exact hi

/-- A HOLD leaves its target nothing but locks and watches (R48, R101, R137). -/
theorem Midway.orderly_beginHold (hm : (⟨s, [], none⟩ : Midway).orderly) {t : Port} {o : HoldOrigin}
    (loaded : s.phase ≠ .loading) : (⟨s.beginHold t o, [], some t⟩ : Midway).orderly := by
  have hport := s.port_beginHold t (o := o)
  have hcur : (s.beginHold t o).scheduler.current
      = s.scheduler.current.map fun x => if x.port = t then { x with discard := true } else x := rfl
  have hstate {p : Port} (hp : p ≠ t) (h : ((s.beginHold t o).port p).state ≠ .active) :
      (s.port p).state ≠ .active := by
    rwa [hport, if_neg hp] at h
  refine ⟨⟨hm.loading.1, fun h => absurd h loaded⟩, fun p hp => ?_, fun p hp hu => ?_, fun p hp hh => ?_, fun p => ?_,
    fun p hp => ?_⟩
  · simp only at hp ⊢
    by_cases h : p = t
    · rw [hport, if_pos h]
      exact ⟨rfl, rfl, rfl, rfl, rfl, rfl, rfl, rfl⟩
    · have hb := hm.bare p (hstate h hp)
      rw [hport, if_neg h]
      exact hb
  · have hold (hne : p ≠ t) (h : (⟨s, [], none⟩ : Midway).uses p) : False := hm.unused p (hstate hne hp) h
    obtain ⟨k, q, hq, rfl⟩ | ⟨c, hc, rfl, hd⟩ | ⟨rec, hrec⟩ := hu
    · simp only [State.poll_beginHold, Option.filter_eq_some_iff, decide_eq_true_eq] at hq
      exact hold hq.2 (.inl ⟨k, q, hq.1, rfl⟩)
    · rw [hcur] at hc
      obtain ⟨c', hc', rfl⟩ := Option.map_eq_some_iff.mp hc
      split at hd
      · cases hd
      next hne =>
        simp only [hne, if_false] at hold
        exact hold hne (.inr (.inl ⟨c', hc', rfl, hd⟩))
    · cases hrec
  · exact hm.unnamed p (hstate (fun h => hh (by rw [h])) hp) (by simp)
  · simp only [hport]
    split
    · simp [PortUnit.hold]
    · exact hm.origin p
  · simp only [hport] at hp ⊢
    split at hp
    · cases hp
    next h => rw [if_neg h]; exact hm.frame p hp

/-- A RELEASE makes its target ACTIVE, which may have what it will (R141). -/
theorem Midway.orderly_release (hm : (⟨s, recs, held⟩ : Midway).orderly) (t : Port) :
    (⟨s.modPort t fun u => { u with state := .active, origin := none, lastResult := .noCode }, recs, held⟩ :
      Midway).orderly := by
  obtain ⟨⟨hiff, hbare⟩, hb, hu, hn, ho, hf⟩ := hm
  have hstate {p : Port} (h : ((s.modPort t fun u =>
      { u with state := .active, origin := none, lastResult := .noCode }).port p).state ≠ .active) :
      p ≠ t ∧ (s.port p).state ≠ .active := by
    rw [State.port_modPort] at h
    split at h
    · exact absurd rfl h
    next hp => exact ⟨hp, h⟩
  refine ⟨⟨hiff, fun hl => ⟨(hbare hl).1, fun p => ?_⟩⟩, fun p hp => ?_, fun p hp => hu p (hstate hp).2,
    fun p hp => hn p (hstate hp).2, fun p => ?_, fun p hp => ?_⟩
  · obtain ⟨hs, hlev, hor, hfl, hmk⟩ := (hbare hl).2 p
    rw [State.port_modPort]
    split
    · exact ⟨rfl, hlev, rfl, hfl, hmk⟩
    · exact ⟨hs, hlev, hor, hfl, hmk⟩
  · obtain ⟨hne, ha⟩ := hstate hp
    simp only [State.port_modPort, if_neg hne]
    exact hb p ha
  · simp only [State.port_modPort]
    split
    · simp
    · exact ho p
  · simp only [State.port_modPort] at hp ⊢
    split at hp
    · cases hp
    next h => rw [if_neg h]; exact hf p hp

/-- The end of a load with a fault leaves every port ACTIVE (R167). -/
theorem Midway.orderly_loadFault (f : LoadFault) : (⟨s.loadFault f, [], none⟩ : Midway).orderly := by
  have hactive (p : Port) : ((s.loadFault f).port p).state = .active := by
    rw [State.port_loadFault, PortUnit.raise_eq]; rfl
  refine ⟨⟨⟨fun h => (by cases h), fun h => absurd rfl h⟩, fun h => (by cases h)⟩, fun p hp => absurd (hactive p) hp,
    fun p hp => absurd (hactive p) hp, fun p hp => absurd (hactive p) hp, fun p => ?_, fun p hp => ?_⟩
  · simp only [State.port_loadFault]
    rw [PortUnit.raise_eq]
    simp [PortUnit.defaultSettings]
  · rw [hactive p] at hp; cases hp

/-- A commit leaves OFFLINE ports as bare as they were in LOADING (R144, R166). -/
theorem Midway.orderly_commit (hm : (⟨s, [], none⟩ : Midway).orderly) (hq : s.quiet) (loading : s.phase = .loading) :
    (⟨s.commit, [], none⟩ : Midway).orderly := by
  have hport := s.port_commit
  have hsched : s.commit.scheduler = s.scheduler := by simp [State.commit]
  have hphase : s.commit.phase ≠ .loading := by simp only [State.commit]; split <;> simp
  have hstate (p : Port) : (s.commit.port p).state = .active ∨ (s.commit.port p).state = .offline := by
    rw [hport, PortUnit.configured]
    simp only
    split
    · exact .inl rfl
    · exact .inr rfl
  obtain ⟨-, hports⟩ := hm.loading.2 loading
  refine ⟨⟨⟨fun h => absurd h hphase, fun h => absurd rfl h⟩, fun h => absurd h hphase⟩, fun p hp => ?_,
    fun p hp hu => ?_, fun p hp _ hn => ?_, fun p => ?_, fun p hp => ?_⟩
  · obtain ⟨hr, hco, hcr, hd, hm', hch⟩ := hq.port p
    obtain ⟨-, -, -, hf, hmask⟩ := hports p
    simp only [hport]
    exact ⟨hr, hco, hcr, hd, hm', hf, hmask, rfl⟩
  · obtain ⟨k, q, hk, -⟩ | ⟨c, hc, -⟩ | ⟨rec, hrec⟩ := Midway.uses_congr (s := s) (held := none)
      (fun k => by unfold State.poll; rw [hsched]) (by rw [hsched]) hu
    · rw [show s.poll k = none from hq.polls k] at hk; cases hk
    · rw [show s.scheduler.current = none from hq.current] at hc; cases hc
    · cases hrec
  · obtain ⟨e, x, hx, hp'⟩ := hn
    rw [State.entry_commit] at hx
    obtain ⟨r, -, -, rfl⟩ := listedEntry_eq_some hx
    simp [RawRecord.toEntry] at hp'
  · rcases hstate p with h | h <;> simp only [h] <;> simp [hport, PortUnit.configured]
  · simp only [hport, PortUnit.configured] at hp ⊢
    split at hp
    · cases hp
    next h =>
      rw [if_neg h]
      intro f
      cases (s.port p).frame <;> simp [FrameState.goOffline]

end

/-! ### Every act -/

/-- Every act keeps idle ports and LOADING bare. -/
theorem Act.orderly {sound : Prop} (hsound : sound) {m m' : Midway} (h : Act sound m m') (hq : m.quiet)
    (hm : m.orderly) : m'.orderly := by
  cases h with
  | restart s cause high =>
    exact Midway.orderly_iff.mpr ⟨s.loadingIsBare_restart cause high, s.idlePortsBare_restart cause high⟩
  | outside frame step => exact Midway.orderly_outside hsound hm frame step
  | turn pos run => exact Midway.orderly_uses hm rfl fun p => .inr
  | ports frame kept => exact Midway.orderly_ports hsound hm frame kept
  | notice e writer run => exact Midway.orderly_notice hm e writer (run hsound)
  | enqueue p r run active room tag => exact Midway.orderly_modPort hm active rfl rfl
  | @fetch s recs held p =>
    refine Midway.orderly_of hm rfl rfl rfl (fun i => ?_) (fun i => .inr) (fun i => .inr) fun _ _ => id
    rw [State.port_modPort]
    split
    · refine ⟨rfl, fun _ hb => ?_, fun _ => id, fun _ => id, fun _ => id⟩
      obtain ⟨hr, hco, hcr, hd, hm', hf, hmask, hch⟩ := hb
      exact ⟨hr, by simp [hco], hcr, hd, hm', hf, hmask, hch⟩
    · exact PortUnit.goesOn_refl _ _
  | unqueue p tag run active =>
    refine Midway.orderly_modPort hm active (PortUnit.standing_removeTag _ _) ?_
    unfold PortUnit.removeTag
    split <;> rfl
  | @take s recs held p r rest head credit rec =>
    obtain ⟨ha, hm'⟩ := Midway.orderly_takeHead hm head
    refine Midway.orderly_uses hm' rfl fun i hu => ?_
    obtain h | h | ⟨rec', hrec⟩ := hu
    · exact .inr (.inl h)
    · exact .inr (.inr (.inl h))
    · rcases List.mem_append.mp hrec with hrec | hrec
      · exact .inr (.inr (.inr ⟨rec', hrec⟩))
      · obtain ⟨rfl, -⟩ := Prod.mk.inj (List.mem_singleton.mp hrec)
        left
        simp only [State.port_modPort, if_true]
        exact ha
  | @park s recs held p r rest k q head credit free room key =>
    obtain ⟨ha, hm'⟩ := Midway.orderly_takeHead hm head
    refine Midway.orderly_uses hm' rfl fun i hu => ?_
    obtain ⟨j, q', hq', rfl⟩ | h | h := hu
    · simp only [State.poll_setPoll] at hq'
      split at hq'
      · cases hq'
        left
        rw [(Prod.mk.inj key).1, State.port_modPort, if_pos rfl]
        exact ha
      · exact .inr (.inl ⟨j, q', hq', rfl⟩)
    · exact .inr (.inr (.inl h))
    · exact .inr (.inr (.inr h))
  | @launch s recs held p r rest c head credit idle key =>
    obtain ⟨ha, hm'⟩ := Midway.orderly_takeHead hm head
    refine Midway.orderly_uses hm' rfl fun i hu => ?_
    obtain h | ⟨c', hc', rfl, -⟩ | h := hu
    · exact .inr (.inl h)
    · cases hc'
      left
      rw [(Prod.mk.inj key).1, State.port_modPort, if_pos rfl]
      exact ha
    · exact .inr (.inr (.inr h))
  | @serve s recs held k q c parked idle slot port =>
    refine Midway.orderly_uses hm rfl fun i hu => ?_
    obtain h | ⟨c', hc', rfl, -⟩ | h := hu
    · exact .inr (.inl h)
    · cases hc'
      exact .inr (.inl ⟨k, q, parked, port.symm⟩)
    · exact .inr (.inr (.inr h))
  | @polls s t recs held frame key =>
    refine Midway.orderly_uses hm (by rw [frame]) fun i hu => .inr ?_
    obtain ⟨k, q, hk, hp⟩ | ⟨c, hc, hp⟩ | h := hu
    · have := key k
      rw [hk] at this
      obtain ⟨q', hq', hkey⟩ := Option.map_eq_some_iff.mp this.symm
      exact .inl ⟨k, q', hq', (Prod.mk.inj hkey).1.trans hp⟩
    · rw [frame] at hc
      exact .inr (.inl ⟨c, hc, hp⟩)
    · exact .inr (.inr h)
  | @endPoll s recs held k q parked rec =>
    refine Midway.orderly_uses hm rfl fun i hu => .inr ?_
    obtain ⟨j, q', hq', hp⟩ | h | ⟨rec', hrec⟩ := hu
    · simp only [State.poll_setPoll] at hq'
      split at hq'
      · cases hq'
      · exact .inl ⟨j, q', hq', hp⟩
    · exact .inr (.inl h)
    · rcases List.mem_append.mp hrec with hrec | hrec
      · exact .inr (.inr ⟨rec', hrec⟩)
      · obtain ⟨rfl, -⟩ := Prod.mk.inj (List.mem_singleton.mp hrec)
        exact .inl ⟨k, q, parked, rfl⟩
  | judge s recs held => exact Midway.orderly_judge hm
  | append s recs held => exact Midway.orderly_append hm
  | clear noRecord =>
    refine Midway.orderly_uses hm rfl fun i hu => .inr ?_
    obtain h | ⟨c, hc, -⟩ | h := hu
    · exact .inl h
    · cases hc
    · exact .inr (.inr h)
  | @finish s recs held c current slot kept rec =>
    refine Midway.orderly_uses hm rfl fun i hu => .inr ?_
    obtain h | ⟨c, hc, -⟩ | ⟨rec', hrec⟩ := hu
    · exact .inl h
    · cases hc
    · rcases List.mem_append.mp hrec with hrec | hrec
      · exact .inr (.inr ⟨rec', hrec⟩)
      · obtain ⟨rfl, -⟩ := Prod.mk.inj (List.mem_singleton.mp hrec)
        exact .inr (.inl ⟨c, current, rfl, kept⟩)
  | @mark s recs held c key =>
    refine Midway.orderly_uses hm rfl fun i hu => .inr ?_
    obtain h | ⟨c', hc', hp, hd⟩ | h := hu
    · exact .inl h
    · have hc'' : c = some c' := hc'
      rw [hc''] at key
      obtain ⟨c₀, hc₀, hkey⟩ := Option.map_eq_some_iff.mp key.symm
      simp only [Current.key, Prod.mk.injEq] at hkey
      obtain ⟨hport, -, -, hdiscard⟩ := hkey
      exact .inr (.inl ⟨c₀, hc₀, hport.trans hp, hdiscard.trans hd⟩)
    · exact .inr (.inr h)
  | entries frame kept => exact Midway.orderly_entries hm frame kept
  | fill config valid untouched free =>
    refine Midway.orderly_setEntry hm _ fun x hx => ?_
    cases hx
    simp only [Entry.untouched, Bool.and_eq_true, decide_eq_true_eq, Option.isNone_iff_eq_none] at untouched
    exact ⟨by rw [config]; simp, untouched.1.1.1.1.2, untouched.2⟩
  | empty e => exact Midway.orderly_setEntry hm e fun x hx => by cases hx
  | runs loaded =>
    obtain ⟨⟨hiff, -⟩, hb, hu, hn, ho, hf⟩ := hm
    exact ⟨⟨⟨fun h => (by cases h), fun h => absurd (hiff.mpr h) loaded⟩, fun h => (by cases h)⟩, hb, hu, hn, ho, hf⟩
  | hold loaded active => exact Midway.orderly_beginHold hm loaded
  | @held s recs t unnamed =>
    obtain ⟨hl, hb, hu, hn, ho, hf⟩ := hm
    refine ⟨hl, hb, hu, fun p hp _ => ?_, ho, hf⟩
    by_cases h : p = t
    · rw [h]; exact State.unnamed_iff.mp unnamed
    · exact hn p hp fun heq => h (Option.some.inj heq).symm
  | release t => exact Midway.orderly_release hm t
  | loadFault f loading => exact Midway.orderly_loadFault f
  | commit valid loading =>
    exact Midway.orderly_commit hm (hq (by rw [loading hsound]; simp)).1 (loading hsound)

end Sys2Proof.Machine

/-! SUPPORT. The shared operations and the frames as acts. -/

namespace Sys2Proof.Machine

/-! ### What keeps a port -/

section
variable {loading : Prop} {u : PortUnit}

theorem PortUnit.keptIn_refl (loading : Prop) (u : PortUnit) : u.keptIn loading u :=
  ⟨rfl, rfl, rfl, rfl, fun _ => id, fun _ => id, fun _ => id, fun _ => rfl, id, fun _ => id⟩

/-- A frame, a result and a clear list are no more than that, on a port that takes frames, or when no frame opens. -/
theorem PortUnit.keptIn_frame (loading : Prop) (u : PortUnit) (x : FrameState) (r : ResultCode) (c : ClearList)
    (h : u.state ≠ .offline ∨ (∀ f, x ≠ .opened f) ∨ x = u.frame) :
    u.keptIn loading { u with frame := x, lastResult := r, notify := { u.notify with clearList := c } } :=
  ⟨rfl, rfl, rfl, rfl, fun _ => id, fun _ => id, fun _ => id, fun _ => rfl, id, fun ho hf => by
    obtain h | h | h := h
    · exact absurd ho h
    · exact h
    · rw [h]; exact hf⟩

theorem PortUnit.keptIn_result (loading : Prop) (u : PortUnit) (r : ResultCode) :
    u.keptIn loading { u with lastResult := r } :=
  u.keptIn_frame loading u.frame r u.notify.clearList (.inr (.inr rfl))

/-- A change of the Notify Unit's state that sets nothing on an idle port or in LOADING. -/
theorem PortUnit.keptIn_modNotify {f : NotifyUnit → NotifyUnit}
    (flags : u.state ≠ .active ∨ loading → u.notify.flags = 0#10 → (f u.notify).flags = 0#10)
    (mask : u.state ≠ .active ∨ loading → (f u.notify).mask = u.notify.mask)
    (changed : u.notify.changed = 0#32 → (f u.notify).changed = 0#32) : u.keptIn loading (u.modNotify f) :=
  ⟨rfl, rfl, rfl, rfl, fun _ => id, fun _ => id, flags, mask, changed, fun _ => id⟩

/-- An event is lost on an idle port, and none is raised in LOADING (R147). -/
theorem PortUnit.keptIn_raise (h : ¬ loading) (f : Flag) : u.keptIn loading (u.raise f) := by
  by_cases ha : u.state = .active
  · rw [PortUnit.raise_active ha]
    exact ⟨rfl, rfl, rfl, rfl, fun _ => id, fun _ => id, fun hl => (hl.elim (absurd ha) h).elim, fun _ => rfl, id,
      fun _ => id⟩
  · rw [PortUnit.raise_inactive ha]
    exact u.keptIn_refl loading

/-- Judging a head asks for one (R58). -/
theorem State.keptIn_judgedPort (loading : Prop) (s : State) (p : Port) (u : PortUnit) :
    u.keptIn loading (s.judgedPort p u) := by
  have hnone (h : u.requests = []) : s.judgedPort p u = u := by simp [State.judgedPort, h]
  rw [State.judgedPort_eq]
  exact ⟨rfl, rfl, rfl, rfl, fun h hd => by rw [hnone h]; exact hd, fun h hm => by rw [hnone h]; exact hm, fun _ => id,
    fun _ => rfl, id, fun _ => id⟩

end

/-! ### Acts that change one part -/

section
variable {sound : Prop} {s : State} {recs : List (Port × Completion)} {held : Option Port}

theorem Acts.modPort {p : Port} {f : PortUnit → PortUnit}
    (h : (s.port p).keptIn (sound ∧ s.blank) (f (s.port p))) :
    Acts sound ⟨s, recs, held⟩ ⟨s.modPort p f, recs, held⟩ :=
  .single (.ports rfl fun i => by
    rw [State.port_modPort]
    split
    next hi => rw [hi]; exact h
    next => exact PortUnit.keptIn_refl _ _)

theorem Acts.mapPorts {f : Port → PortUnit → PortUnit}
    (h : ∀ p, (s.port p).keptIn (sound ∧ s.blank) (f p (s.port p))) :
    Acts sound ⟨s, recs, held⟩ ⟨s.mapPorts f, recs, held⟩ :=
  .single (.ports (by simp [State.mapPorts]) fun i => by rw [State.port_mapPorts]; exact h i)

theorem Acts.setResult (p : Port) (r : ResultCode) : Acts sound ⟨s, recs, held⟩ ⟨s.setResult p r, recs, held⟩ :=
  Acts.modPort (PortUnit.keptIn_result _ _ r)

theorem Acts.closeFrame (p : Port) : Acts sound ⟨s, recs, held⟩ ⟨s.closeFrame p, recs, held⟩ :=
  Acts.modPort (PortUnit.keptIn_frame _ _ .idle _ .absent (.inr (.inl fun f h => by cases h)))

theorem Acts.judgeHead (p : Port) : Acts sound ⟨s, recs, held⟩ ⟨s.judgeHead p, recs, held⟩ :=
  Acts.modPort (s.keptIn_judgedPort _ p _)

theorem Acts.raise (h : ¬ (sound ∧ s.blank)) (p : Port) (f : Flag) :
    Acts sound ⟨s, recs, held⟩ ⟨s.raise p f, recs, held⟩ := Acts.modPort (PortUnit.keptIn_raise h f)

theorem Acts.raiseIn (h : ¬ (sound ∧ s.blank)) (who : Port → Bool) (f : Flag) :
    Acts sound ⟨s, recs, held⟩ ⟨s.raiseIn who f, recs, held⟩ :=
  Acts.mapPorts fun p => by
    split
    · exact PortUnit.keptIn_raise h f
    · exact PortUnit.keptIn_refl _ _

/-- Judging: the heads, the slots, and the records that join (R50, R77, R90, R94). -/
theorem Acts.settle (s : State) (recs : List (Port × Completion)) (held : Option Port) :
    Acts sound ⟨s, recs, held⟩ ⟨s.settle recs, [], held⟩ :=
  ((Acts.mapPorts fun p => s.keptIn_judgedPort _ p _).trans (.single (.judge s.judgeHeads recs held))).tail
    (.append _ _ _)

theorem Acts.setEngine (e : Engine) : Acts sound ⟨s, recs, held⟩ ⟨s.setEngine e, recs, held⟩ :=
  .single (.outside rfl (.inl rfl))

theorem Acts.busRuns (l : List Bool) (m : Bool) : Acts sound ⟨s, recs, held⟩ ⟨s.busRuns l m, recs, held⟩ :=
  Acts.setEngine _

/-- Entries change slot by slot. -/
theorem Acts.entries {t : State} (frame : t = { s with directory := t.directory })
    (h : ∀ e x, s.entry e = some x → ∃ y, t.entry e = some y ∧ s.entryKept sound x y)
    (hnone : ∀ e, s.entry e = none → t.entry e = none) : Acts sound ⟨s, recs, held⟩ ⟨t, recs, held⟩ :=
  .single (.entries frame fun e => by
    cases hx : s.entry e with
    | none => rw [hnone e hx]; exact .none
    | some x =>
      obtain ⟨y, hy, hk⟩ := h e x hx
      rw [hy]
      exact .some hk)

theorem Acts.mapEntries {f : Entry → Entry} (h : ∀ x, s.entryKept sound x (f x)) :
    Acts sound ⟨s, recs, held⟩ ⟨s.mapEntries f, recs, held⟩ :=
  Acts.entries (by simp [State.mapEntries]) (fun e x hx => ⟨f x, by simp [hx], h x⟩) fun e hx => by simp [hx]

theorem Acts.setEntry {e : EntryNo} {x y : Entry} (hx : s.entry e = some x) (h : s.entryKept sound x y) :
    Acts sound ⟨s, recs, held⟩ ⟨s.setEntry e (some y), recs, held⟩ := by
  refine Acts.entries rfl (fun i z hz => ?_) fun i hi => ?_
  · rw [State.entry_setEntry]
    split
    next hie =>
      rw [hie, hx] at hz
      cases hz
      exact ⟨y, rfl, h⟩
    next => exact ⟨z, hz, s.entryKept_refl sound z⟩
  · rw [State.entry_setEntry, if_neg fun hie => by rw [hie, hx] at hi; cases hi]
    exact hi

theorem Acts.modEntry {e : EntryNo} {f : Entry → Entry} (h : ∀ x, s.entry e = some x → s.entryKept sound x (f x)) :
    Acts sound ⟨s, recs, held⟩ ⟨s.modEntry e f, recs, held⟩ := by
  cases hx : s.entry e with
  | none =>
    have : s.modEntry e f = s := by
      unfold State.modEntry
      rw [hx, Option.map_none, ← hx, State.setEntry_self]
    rw [this]
  | some x =>
    rw [State.modEntry_eq hx]
    exact Acts.setEntry hx (h x hx)

theorem Acts.setPoll {k : SlotNo} {q q' : Poll} (hq : s.poll k = some q) (hkey : q'.key = q.key) :
    Acts sound ⟨s, recs, held⟩ ⟨s.setPoll k (some q'), recs, held⟩ :=
  .single (.polls rfl fun j => by
    rw [State.poll_setPoll]
    split
    next hj => rw [hj, hq, Option.map_some, Option.map_some, hkey]
    next => rfl)

theorem Acts.mapPolls {f : Poll → Poll} (h : ∀ q, (f q).key = q.key) :
    Acts sound ⟨s, recs, held⟩ ⟨s.mapPolls (Option.map f), recs, held⟩ :=
  .single (.polls (by simp [State.mapPolls]) fun j => by
    rw [State.poll_mapPolls, Option.map_map]
    congr 1
    exact funext h)

theorem Acts.markLockLost (e : EntryNo) (p : Port) :
    Acts sound ⟨s, recs, held⟩ ⟨s.markLockLost e p, recs, held⟩ := by
  rw [State.markLockLost_eq]
  refine .single (.mark ?_)
  rw [Option.map_map]
  congr 1
  funext c
  simp only [Function.comp_apply]
  split <;> rfl

/-! ### What keeps an entry -/

/-- The owner's lease reloaded (R69). -/
theorem State.entryKept_reload {x : Entry} {p : Port} (ho : x.owner = some p) : s.entryKept sound x x.reload :=
  ⟨rfl, rfl, rfl, fun ⟨_, hv, _⟩ => ⟨le_refl _, hv, fun h => by simp [Entry.reload, ho] at h⟩,
    fun _ _ h => by simp [Entry.untouched, ho] at h, fun _ => .inl, fun _ => .inl⟩

/-- A lock that is given to a port that is engaged (R69, R72, R75, R76). -/
theorem State.entryKept_lock {x : Entry} {p : Port} (lease : Byte) (reason : ReleaseReason)
    (he : s.engaged p) (ht : x.owner ≠ none ∨ s.phase = .run) : s.entryKept sound x { x with
      owner := some p, leaseValue := lease.toNat, leaseRemaining := lease.toNat * 4, releaseReason := reason } := by
  have hlease : lease.toNat ≤ 255 := Nat.le_of_lt_succ lease.isLt
  refine ⟨rfl, rfl, rfl, fun _ => ⟨le_refl _, hlease, fun h => by cases h⟩, fun _ hr hu => ?_,
    fun q hq => by cases hq; exact .inr he, fun _ => .inl⟩
  simp only [Entry.untouched, Bool.and_eq_true, Option.isNone_iff_eq_none] at hu
  rcases ht with ho | hrun
  · exact absurd hu.1.1.1.1.2 ho
  · exact absurd hrun hr

/-- A lock that ends, with a reason other than BROKEN (R68, R71, R76). -/
theorem State.entryKept_free {x : Entry} (ho : x.owner ≠ none) {reason : ReleaseReason} (hr : reason ≠ .broken) :
    s.entryKept sound x { x with owner := none, leaseRemaining := 0, releaseReason := reason } :=
  ⟨rfl, rfl, rfl, fun ⟨_, hv, _⟩ => ⟨Nat.zero_le _, hv, fun _ => ⟨rfl, hr⟩⟩,
    fun _ _ h => by
      simp only [Entry.untouched, Bool.and_eq_true, Option.isNone_iff_eq_none] at h
      exact absurd h.1.1.1.1.2 ho,
    fun q hq => (by cases hq), fun _ => .inl⟩

/-- A change of the watch set (R151, R152, R156). -/
theorem State.entryKept_watch {x : Entry} {w : PortSet}
    (hu : s.phase ≠ .run → x.watchSet = 0#4 → w = 0#4)
    (hw : ∀ q, hasBit w q = true → hasBit x.watchSet q = true ∨ s.engaged q) :
    s.entryKept sound x { x with watchSet := w } :=
  ⟨rfl, rfl, rfl, id, fun _ hr h => by
    simp only [Entry.untouched, Bool.and_eq_true, decide_eq_true_eq] at h ⊢
    exact ⟨h.1, hu hr h.2⟩, fun _ => .inl, hw⟩

/-- A count that moves, in RUN (R16). -/
theorem State.entryKept_nackCount {x : Entry} (n : Fin 4) (hr : sound → s.phase = .run) :
    s.entryKept sound x { x with nackCount := n } :=
  ⟨rfl, rfl, rfl, id, fun hs h => absurd (hr hs) h, fun _ => .inl, fun _ => .inl⟩

/-- A millisecond of a lease (R70). -/
theorem State.entryKept_tick (x : Entry) : s.entryKept sound x x.tick := by
  rw [Entry.tick_eq]
  split
  · exact s.entryKept_refl sound x
  next ho =>
    refine ⟨rfl, rfl, rfl, fun ⟨hl, hv, _⟩ => ⟨(Nat.sub_le _ _).trans hl, hv, fun h => absurd h ho⟩, fun _ _ h => ?_,
      fun _ => .inl, fun _ => .inl⟩
    simp only [Entry.untouched, Bool.and_eq_true, Option.isNone_iff_eq_none] at h
    exact absurd h.1.1.1.1.2 ho

/-! ### Releases -/

theorem Act.takeHead {p : Port} {r : Request} {rest : List Request} (head : (s.port p).requests = r :: rest)
    (credit : (s.port p).creditFree = true) (rec : Completion) :
    Act sound ⟨s, recs, held⟩ ⟨s.setPort p ((s.port p).headTaken rest), recs ++ [(p, rec)], held⟩ := by
  rw [← State.modPort_takeHead head]
  exact .take head credit rec

/-- A lock that is released becomes free, or it passes to the head that the offer picks (R76). -/
theorem State.release_cases {P : State × List (Port × Completion) → Prop} {e : EntryNo} {x : Entry}
    {reason : ReleaseReason} (hx : s.entry e = some x)
    (freed : P (s.setEntry e (some { x with owner := none, leaseRemaining := 0, releaseReason := reason }), []))
    (passed : ∀ q r rest, x.nackCount ≠ 3 → s.heir e q r rest → P ((s.setEntry e (some { x with
        owner := some q, leaseValue := r.lease.toNat, leaseRemaining := r.lease.toNat * 4,
        releaseReason := reason })).setPort q ((s.port q).headTaken rest),
      [(q, recordWithoutBus r r.entry .ok (some (previousOf reason)))])) : P (s.release e reason) := by
  by_cases hw : x.nackCount = 3 ∨ ∀ q r rest d, ¬ s.waitsFor e q r rest d
  · rw [State.release_unclaimed hx hw]
    exact freed
  · simp only [not_or, not_forall, not_not] at hw
    obtain ⟨ha, q₀, r₀, rest₀, d₀, hw⟩ := hw
    obtain ⟨q, r, rest, hheir⟩ := State.exists_heir hw
    rw [State.release_claimed hx ha hheir]
    exact passed q r rest ha hheir

/-- A lock that is released: it becomes free, or a waiting head is taken and given it (R76). -/
theorem Acts.release {e : EntryNo} {x : Entry} {reason : ReleaseReason} (hx : s.entry e = some x)
    (ho : x.owner ≠ none) (hr : reason ≠ .broken) :
    Acts sound ⟨s, recs, held⟩ ⟨(s.release e reason).1, recs ++ (s.release e reason).2, held⟩ := by
  refine State.release_cases (P := fun y => Acts sound ⟨s, recs, held⟩ ⟨y.1, recs ++ y.2, held⟩) hx ?_ ?_
  · rw [List.append_nil]
    exact Acts.setEntry hx (State.entryKept_free ho hr)
  · rintro q r rest - ⟨d, ⟨head, -, -, -, -, -, credit⟩, -⟩
    have hne : (s.port q).requests ≠ [] := by rw [head]; simp
    refine (Acts.setEntry hx (State.entryKept_lock r.lease reason (.inr hne) (.inl ho))).tail ?_
    exact Act.takeHead (s := s.setEntry e _) head (decide_eq_true credit) _

/-- The locks of a port released, one after the other (R82). -/
theorem Acts.releaseOwned (t : Port) (l : List EntryNo) (x : State × List (Port × Completion)) :
    Acts sound ⟨x.1, x.2, held⟩ ⟨(State.releaseOwned t l x).1, (State.releaseOwned t l x).2, held⟩ := by
  induction l generalizing x with
  | nil => exact .refl
  | cons e es ih =>
    unfold State.releaseOwned
    split
    next howned =>
      obtain ⟨en, hen, ho⟩ := (Option.any_eq_true _ _).mp howned
      exact (Acts.release hen (by rw [of_decide_eq_true ho]; simp) (by simp)).trans
        (ih ((x.1.release e .reset).1, x.2 ++ (x.1.release e .reset).2))
    next => exact ih x

/-- Once its locks are released and its watches taken away a port has no place in the directory. -/
theorem State.unnamed_endHold {t : Port} {o : HoldOrigin} {s' : State} {recs : List (Port × Completion)}
    (h : (s.beginHold t o).locksReleased t (List.finRange 32) s' recs) :
    (s'.mapEntries fun en => { en with watchSet := withoutBit en.watchSet t }).unnamed t := by
  intro e
  rw [State.entry_mapEntries]
  cases hx : (s.beginHold t o).entry e with
  | none => rw [h.empty e hx]; rfl
  | some x =>
    obtain ⟨y, hy, hrel⟩ := h.entries e (List.mem_finRange e) x hx
    have hne : y.owner ≠ some t := by
      by_cases hxo : x.owner = some t
      · by_cases hp : ∃ q r rest, (s.beginHold t o).passes t e q r rest
        · obtain ⟨q, r, rest, hp⟩ := hp
          rw [hrel.passed q r rest hp]
          simpa using hp.ne_owner
        · rw [hrel.freed hxo (by simpa using hp)]
          simp
      · rw [hrel.kept hxo]; exact hxo
    simp [hy, hne]

/-- A HOLD that is carried out (R137). -/
theorem Acts.holdPort {t : Port} (o : HoldOrigin) (loaded : s.phase ≠ .loading)
    (active : (s.port t).state = .active) : Acts sound ⟨s, [], none⟩ ⟨s.holdPort t o, [], none⟩ := by
  obtain ⟨more, hmore, hrel⟩ :=
    State.locksReleased_releaseOwned t (List.finRange 32) (List.nodup_finRange 32) (s.beginHold t o, [])
  have hphase : (State.releaseOwned t (List.finRange 32) (s.beginHold t o, [])).1.phase = s.phase := by
    rw [hrel.frame]; rfl
  have hwatch (x : Entry) : (State.releaseOwned t (List.finRange 32) (s.beginHold t o, [])).1.entryKept sound x
      { x with watchSet := withoutBit x.watchSet t } :=
    State.entryKept_watch (fun _ h => by rw [h]; simp [withoutBit]) fun q hq => by
      simp only [hasBit_withoutBit, Bool.and_eq_true] at hq
      exact .inl hq.1
  have hraise : ¬ (sound ∧ ((State.releaseOwned t (List.finRange 32) (s.beginHold t o, [])).1.mapEntries fun en =>
      { en with watchSet := withoutBit en.watchSet t }).blank) := by
    rintro ⟨-, hl, -⟩
    rw [State.phase_mapEntries, hphase] at hl
    exact loaded hl
  exact Relation.ReflTransGen.head (.hold loaded active)
    ((Acts.releaseOwned t (List.finRange 32) (s.beginHold t o, [])).trans ((Acts.mapEntries hwatch).trans
      (.head (.held (State.unnamed_endHold hrel)) ((Acts.raiseIn hraise _ .peer).trans (Acts.settle _ _ _)))))

end

end Sys2Proof.Machine

/-! SUPPORT. The frames as acts: what every frame end does, command by command. -/

namespace Sys2Proof.Machine

section
variable {sound : Prop} {s : State} {p : Port}

/-- What lets the rule of command `c` run at port `p` on a frame that has been closed: the port is not OFFLINE; the part
is not in LOADING, STATUS apart; and the port is ACTIVE, STATUS and RELEASE apart (R129). -/
structure State.admitted (s : State) (p : Port) (c : Command) : Prop where
  online : (s.port p).state ≠ .offline
  loaded : c ≠ .status → s.phase ≠ .loading
  active : c ≠ .status → c ≠ .release → (s.port p).state = .active

theorem acts_unjudgedEnd (s : State) (p : Port) : Acts sound ⟨s, [], none⟩ ⟨s.unjudgedEnd p, [], none⟩ := by
  unfold State.unjudgedEnd
  split
  · exact Acts.modPort (PortUnit.keptIn_frame _ _ .idle _ _ (.inr (.inl fun f h => by cases h)))
  · exact .refl

/-- A frame end is made of acts when the command's own rule is, where it is admitted (R128, R129). -/
theorem Acts.frameEnd {c : Command} {bits : List Bool} {rule : FrameEnd → State → State}
    (hrule : ∀ f u, u.admitted p c → Acts sound ⟨u, [], none⟩ ⟨rule f u, [], none⟩) :
    Acts sound ⟨s, [], none⟩ ⟨s.frameEnd p c bits rule, [], none⟩ := by
  have hresult (r : ResultCode) : Acts sound ⟨s, [], none⟩ ⟨(s.closeFrame p).setResult p r, [], none⟩ :=
    (Acts.closeFrame p).trans (Acts.setResult p r)
  unfold State.frameEnd
  cases hf : s.frameAt p bits with
  | none => exact acts_unjudgedEnd s p
  | some x =>
    have hoff : (s.port p).state ≠ .offline := fun h => by simp [State.frameAt, h] at hf
    have hstate : ((s.closeFrame p).port p).state = (s.port p).state := by simp [State.closeFrame]
    simp only
    split
    · unfold State.portLevel
      split
      · exact hresult _
      next hheld =>
        split
        · exact hresult _
        next hload =>
          split
          · exact hresult _
          · refine (Acts.closeFrame p).trans (hrule _ _ ⟨hstate ▸ hoff, fun hc hl => hload ⟨hl, hc⟩, fun hs hr => ?_⟩)
            rw [hstate] at hheld ⊢
            cases hst : (s.port p).state with
            | active => rfl
            | held => exact absurd ⟨hst, hs, hr⟩ hheld
            | offline => exact absurd hst hoff
    · exact .refl

/-- A part that is in neither CONFIG nor LOADING is in RUN (R158). -/
theorem State.phase_run (hc : s.phase ≠ .config) (hl : s.phase ≠ .loading) : s.phase = .run := by
  cases h : s.phase with
  | loading => exact absurd h hl
  | config => exact absurd h hc
  | run => rfl

/-- Changes of the Notify Unit by its own port: the flags only fall (R148 to R150, R154). -/
theorem PortUnit.keptIn_clearFlags (loading : Prop) (u : PortUnit) (l : FlagSet) :
    u.keptIn loading (u.modNotify fun n => { n with flags := n.flags &&& ~~~l }) :=
  PortUnit.keptIn_modNotify (fun _ h => by simp [h]) (fun _ => rfl) id

theorem acts_submitRule (f : FrameEnd) (h : s.admitted p .submit) :
    Acts sound ⟨s, [], none⟩ ⟨submitRule p f s, [], none⟩ := by
  unfold submitRule State.submit
  split
  · exact Acts.setResult p _
  next hconfig =>
    split
    · exact Acts.setResult p _
    next r _ =>
      split
      · exact Acts.setResult p _
      next hroom =>
        split
        · exact Acts.setResult p _
        next htag =>
          split
          · exact Acts.setResult p _
          · have henqueue := Act.enqueue (sound := sound) (recs := []) (held := none) p r
              (State.phase_run hconfig (h.loaded (by simp))) (h.active (by simp) (by simp)) (by omega)
              (by simpa using htag)
            exact .head henqueue ((Acts.setResult p .done).trans (Acts.judgeHead p))

theorem acts_fetchRule (f : FrameEnd) (s : State) : Acts sound ⟨s, [], none⟩ ⟨fetchRule p f s, [], none⟩ := by
  unfold fetchRule
  split
  · exact Acts.setResult p _
  · split
    · exact Acts.setResult p _
    · split
      · split
        · exact .head (.fetch p) (Acts.setResult p _)
        · exact Acts.setResult p _
      · exact Acts.setResult p _

/-- A CANCEL of a poll: it is marked, or it ends at once (R99, R100). -/
theorem acts_cancelPoll (s : State) (k : SlotNo) : Acts sound ⟨s, [], none⟩ ⟨s.cancelPoll k, [], none⟩ := by
  unfold State.cancelPoll
  cases hq : s.poll k with
  | none => exact .refl
  | some q =>
    simp only
    split
    · exact Acts.setPoll hq rfl
    · exact .head (.endPoll hq (pollRecord q .aborted)) (.single (.append _ _ _))

theorem acts_cancelRule (f : FrameEnd) (h : s.admitted p .cancel) :
    Acts sound ⟨s, [], none⟩ ⟨cancelRule p f s, [], none⟩ := by
  unfold cancelRule
  simp only
  split
  · exact Acts.setResult p _
  next hconfig =>
    split
    · exact .head (.unqueue p (f.arg 0) (State.phase_run hconfig (h.loaded (by simp))) (h.active (by simp) (by simp)))
        ((Acts.judgeHead p).trans (Acts.setResult p _))
    · split
      · exact (acts_cancelPoll s _).trans (Acts.setResult p _)
      · split
        · exact Acts.setResult p _
        · exact Acts.setResult p _

theorem acts_eventsRule (f : FrameEnd) (s : State) : Acts sound ⟨s, [], none⟩ ⟨eventsRule p f s, [], none⟩ := by
  unfold eventsRule
  split
  · split
    · exact (Acts.modPort (PortUnit.keptIn_clearFlags _ _ _)).trans (Acts.setResult p _)
    · exact Acts.setResult p _
  all_goals exact Acts.setResult p _

theorem acts_ackEventsRule (f : FrameEnd) (s : State) :
    Acts sound ⟨s, [], none⟩ ⟨ackEventsRule p f s, [], none⟩ :=
  (Acts.modPort (PortUnit.keptIn_clearFlags _ _ _)).trans (Acts.setResult p _)

theorem acts_setMaskRule (f : FrameEnd) (h : s.admitted p .setMask) :
    Acts sound ⟨s, [], none⟩ ⟨setMaskRule p f s, [], none⟩ := by
  have hidle : ¬ ((s.port p).state ≠ .active ∨ (sound ∧ s.blank)) := by
    rintro (ha | hl)
    · exact ha (h.active (by simp) (by simp))
    · exact h.loaded (by simp) hl.2.1
  exact (Acts.modPort (PortUnit.keptIn_modNotify (fun hi => absurd hi hidle) (fun hi => absurd hi hidle) id)).trans
    (Acts.setResult p _)

theorem acts_changesRule (f : FrameEnd) (s : State) : Acts sound ⟨s, [], none⟩ ⟨changesRule p f s, [], none⟩ := by
  unfold changesRule
  split
  · exact Acts.setResult p _
  · split
    · split
      · exact (Acts.modPort (PortUnit.keptIn_modNotify (fun _ => id) (fun _ => rfl) fun hc => by simp [hc])).trans
          (Acts.setResult p _)
      · exact Acts.setResult p _
    all_goals exact Acts.setResult p _

theorem acts_watchRule (f : FrameEnd) (h : s.admitted p .watch) :
    Acts sound ⟨s, [], none⟩ ⟨watchRule p f s, [], none⟩ := by
  unfold watchRule
  split
  · exact Acts.setResult p _
  next hconfig =>
    have hrun := State.phase_run hconfig (h.loaded (by simp))
    have hwatch (x : Entry) : s.entryKept sound x { x with watchSet := withBit x.watchSet p } :=
      State.entryKept_watch (fun hr => absurd hrun hr) fun q hq => by
        by_cases hqp : q = p
        · rw [hqp]
          exact .inr (.inl (h.active (by simp) (by simp)))
        · rw [hasBit_withBit] at hq
          exact .inl (by simpa [hqp] using hq)
    split
    · exact Acts.setResult p _
    · split
      · exact Acts.setResult p _
      · split
        · exact (Acts.modEntry fun x _ => hwatch x).trans (Acts.setResult p _)
        · exact Acts.setResult p _

theorem acts_unwatchRule (f : FrameEnd) (s : State) : Acts sound ⟨s, [], none⟩ ⟨unwatchRule p f s, [], none⟩ := by
  have hunwatch (x : Entry) : s.entryKept sound x { x with watchSet := withoutBit x.watchSet p } :=
    State.entryKept_watch (fun _ h => by simp [h, withoutBit]) fun q hq => by
      simp only [hasBit_withoutBit, Bool.and_eq_true] at hq
      exact .inl hq.1
  unfold unwatchRule
  split
  · exact Acts.setResult p _
  next e _ =>
    split
    · exact Acts.setResult p _
    · exact (Acts.modEntry fun x _ => hunwatch x).trans ((Acts.modPort (PortUnit.keptIn_modNotify (fun _ => id)
        (fun _ => rfl) fun hc => (congrArg (withoutBit · e) hc).trans (by simp [withoutBit]))).trans
          (Acts.setResult p _))

theorem acts_renewRule (f : FrameEnd) (s : State) : Acts sound ⟨s, [], none⟩ ⟨renewRule p f s, [], none⟩ := by
  unfold renewRule
  split
  · exact Acts.setResult p _
  · split
    · exact Acts.setResult p _
    · split
      next howned =>
        refine (Acts.modEntry fun x hx => State.entryKept_reload (p := p) ?_).trans (Acts.setResult p _)
        simpa [hx] using howned
      · exact Acts.setResult p _

theorem acts_dirWriteRule (f : FrameEnd) (h : s.admitted p .dirWrite) :
    Acts sound ⟨s, [], none⟩ ⟨dirWriteRule p f s, [], none⟩ := by
  have hrefused (r : ResultCode) : Acts sound ⟨s, [], none⟩ ⟨s.setResult p r, [], none⟩ := Acts.setResult p r
  unfold dirWriteRule
  simp only
  split
  · exact hrefused _
  next hrun =>
    have hconfig : s.phase = .config := by
      cases hp : s.phase with
      | loading => exact absurd hp (h.loaded (by simp))
      | config => rfl
      | run => exact absurd hp hrun
    iterate 5 (split; · exact hrefused _)
    split
    · split
      · exact hrefused _
      next hvalid =>
        split
        · exact hrefused _
        next htaken =>
          exact .head (.fill hconfig (RawRecord.valid_toEntry (by simpa using hvalid)) (RawRecord.untouched_toEntry _)
            (by simpa using htaken)) (Acts.setResult p _)
    · exact hrefused _

theorem acts_dirClearRule (f : FrameEnd) (s : State) : Acts sound ⟨s, [], none⟩ ⟨dirClearRule p f s, [], none⟩ := by
  unfold dirClearRule
  split
  · exact Acts.setResult p _
  · split
    · exact Acts.setResult p _
    · split
      · exact Acts.setResult p _
      · exact .head (.empty _) (Acts.setResult p _)

theorem acts_sealRule (f : FrameEnd) (h : s.admitted p .seal) :
    Acts sound ⟨s, [], none⟩ ⟨sealRule p f s, [], none⟩ := by
  unfold sealRule
  split
  · exact Acts.setResult p _
  · split
    · exact Acts.setResult p _
    · exact .head (.runs (h.loaded (by simp))) (Acts.setResult p _)

theorem acts_holdRule (f : FrameEnd) (h : s.admitted p .hold) :
    Acts sound ⟨s, [], none⟩ ⟨holdRule p f s, [], none⟩ := by
  unfold holdRule
  split
  · exact Acts.setResult p _
  next t _ =>
    split
    · exact Acts.setResult p _
    next hoff =>
      split
      · exact Acts.setResult p _
      · split
        · exact Acts.setResult p _
        next hheld =>
          refine (Acts.setResult p .done).trans (Acts.holdPort _ (h.loaded (by simp)) ?_)
          rw [State.port_setResult]
          cases hst : (s.port t).state with
          | active => split <;> simp [hst]
          | held => exact absurd hst hheld
          | offline => exact absurd hst hoff

theorem acts_releaseRule (f : FrameEnd) (h : s.admitted p .release) :
    Acts sound ⟨s, [], none⟩ ⟨releaseRule p f s, [], none⟩ := by
  unfold releaseRule
  split
  · exact Acts.setResult p _
  next t _ =>
    split
    · exact Acts.setResult p _
    · split
      · exact Acts.setResult p _
      · split
        · exact Acts.setResult p _
        · refine (Acts.setResult p .done).trans (.head (.release t) ?_)
          exact Acts.raiseIn (s := (s.setResult p .done).modPort t fun _ => _)
            (fun hl => h.loaded (by simp) hl.2.1) _ .peer

theorem acts_restartRule (f : FrameEnd) (s : State) : Acts sound ⟨s, [], none⟩ ⟨restartRule p f s, [], none⟩ := by
  unfold restartRule
  split
  · exact Acts.setResult p _
  · exact .single (.restart s .restart s.resetn)

/-! ### Select fall, byte 0, and the ends that are not judged -/

theorem acts_execFrameOpen {t : State} (h : execFrameOpen p s = .next t) : Acts sound ⟨s, [], none⟩ ⟨t, [], none⟩ := by
  cases h
  split
  · exact Acts.modPort (PortUnit.keptIn_frame _ _ .ignored _ _ (.inr (.inl fun f h => by cases h)))
  next hoff =>
    split
    · exact .refl
    all_goals exact Acts.modPort (PortUnit.keptIn_frame _ _ _ _ _ (.inl hoff))

theorem acts_execResponseSnapshot {t : State} {b : Byte} (h : execResponseSnapshot p b s = .next t) :
    Acts sound ⟨s, [], none⟩ ⟨t, [], none⟩ := by
  cases h
  split
  · exact .refl
  next hoff =>
    split
    · split
      · unfold State.snapshot
        refine Acts.modPort ?_
        exact PortUnit.keptIn_frame _ _ _ _ _ (.inl hoff)
      · exact .refl
    all_goals exact .refl

theorem acts_execIgnoredFrame {t : State} {bits : List Bool} (h : execIgnoredFrame p bits s = .next t) :
    Acts sound ⟨s, [], none⟩ ⟨t, [], none⟩ := by
  cases h
  split
  · split
    · exact Acts.modPort (PortUnit.keptIn_frame _ _ .idle _ _ (.inr (.inl fun f h => by cases h)))
    · exact .refl
  all_goals exact acts_unjudgedEnd s p

theorem acts_execUnknownCommand {t : State} {bits : List Bool} (h : execUnknownCommand p bits s = .next t) :
    Acts sound ⟨s, [], none⟩ ⟨t, [], none⟩ := by
  cases h
  split
  · split
    · exact (Acts.closeFrame p).trans (Acts.setResult p _)
    · exact .refl
  · exact acts_unjudgedEnd s p

end

end Sys2Proof.Machine

/-! SUPPORT. Heads, expiries, the bus and the loader as acts: that every command is made of acts. -/

namespace Sys2Proof.Machine

/-! ### What the rules find -/

/-- What the Lock logic takes (R50, R51): a ready head of the kind asked for, that nothing holds back, on an occupied
slot that is not ABSENT. -/
theorem State.readyLockKind_eq_some {s : State} {p : Port} {k : Kind} {r : Request} {e : EntryNo} {x : Entry} :
    s.readyLockKind p k = some (r, e, x) ↔ s.readyHead p = some r ∧ entryOfByte r.entry = some e ∧ s.entry e = some x
      ∧ r.kind = k ∧ x.nackCount ≠ 3 := by
  constructor
  · intro h
    unfold State.readyLockKind at h
    split at h
    · cases h
    next r' hr =>
      split at h
      · cases h
      next e' he =>
        split at h
        · cases h
        next x' hx =>
          split at h
          next hk =>
            cases h
            exact ⟨hr, he, hx, hk.1, of_decide_eq_false hk.2⟩
          next => cases h
  · rintro ⟨hr, he, hx, hk, ha⟩
    simp [State.readyLockKind, hr, he, hx, hk, Entry.absent, ha]

/-- A head that is taken is in a queue, and a credit is free for it (R50). -/
theorem State.headReady.creditFree {s : State} {p : Port} {r : Request} {rest : List Request}
    (h : s.headReady p r rest) : (s.port p).creditFree = true := by
  obtain ⟨-, -, -, hcredit, -⟩ := h
  exact decide_eq_true hcredit

/-- A QUEUED head has a free credit (R32). -/
theorem State.creditFree_of_queued {s : State} {p : Port} (h : s.headState p = some .queued) :
    (s.port p).creditFree = true := by
  unfold State.headState at h
  iterate 2 (split at h; · cases h)
  split at h
  next hcredit => exact hcredit
  next => cases h

/-- A lock that is released leaves its slot occupied (R76). -/
theorem State.entry_release_ne_none {s : State} {e : EntryNo} {x : Entry} (hx : s.entry e = some x)
    (reason : ReleaseReason) : (s.release e reason).1.entry e ≠ none :=
  State.release_cases (P := fun y => y.1.entry e ≠ none) hx (by simp) fun q r rest _ _ => by simp

/-- A place for a poll is a free slot, with room among the port's polls (R53, R87). -/
theorem State.parkingPlace_some {s : State} {p : Port} {r : Request} {k : SlotNo} {e : EntryNo} {x : Entry}
    (h : s.parkingPlace p r = some (k, e, x)) : s.parked p < 3 ∧ s.poll k = none := by
  unfold State.parkingPlace at h
  split at h
  next hroom =>
    split at h
    next k' e' hk he =>
      obtain ⟨y, -, hy⟩ := Option.map_eq_some_iff.mp h
      cases hy
      exact ⟨hroom.2, (State.freeSlot_eq_some.mp hk).1⟩
    next => cases h
  next => cases h

/-- What a slot makes of a report keeps its port and tag. -/
theorem Poll.key_answer (q : Poll) (now : Time) (r : Report) : (q.answer now r).1.key = q.key := by
  unfold Poll.answer
  split
  · simp only
    iterate 2 (split; · rfl)
    split <;> rfl
  · rfl

section
variable {sound : Prop} {s t : State} {p : Port}

/-! ### Heads (R50 to R54, R58, R72 to R76, R89) -/

/-- A head that is ready is taken with its record to join. -/
theorem Acts.takeReady {r : Request} (h : s.readyHead p = some r) (rec : Completion) :
    Acts sound ⟨s, [], none⟩ ⟨s.modPort p PortUnit.takeHead, [(p, rec)], none⟩ := by
  obtain ⟨⟨rest, hready⟩, -⟩ := State.readyHead_eq_some.mp h
  have hcredit := hready.creditFree
  obtain ⟨-, -, head, -⟩ := hready
  exact .single (.take head hcredit rec)

/-- The port of a ready head stays engaged once it is taken, and the part is in RUN. -/
theorem State.engaged_takeHead {r : Request} (h : s.readyHead p = some r) :
    (s.modPort p PortUnit.takeHead).engaged p ∧ s.phase = .run := by
  obtain ⟨⟨rest, hrun, hactive, -⟩, -⟩ := State.readyHead_eq_some.mp h
  refine ⟨.inl ?_, hrun⟩
  simpa [PortUnit.takeHead, PortUnit.dropHead] using hactive

theorem acts_execFenceHead (h : execFenceHead p s = .next t) : Acts sound ⟨s, [], none⟩ ⟨t, [], none⟩ := by
  cases h
  split
  · exact .refl
  next r hr =>
    split
    · exact (Acts.takeReady hr _).trans (Acts.settle _ _ _)
    · exact .refl

theorem acts_execPollParking (h : execPollParking p s = .next t) : Acts sound ⟨s, [], none⟩ ⟨t, [], none⟩ := by
  cases h
  split
  · exact .refl
  next r hr =>
    split
    · exact .refl
    next k e x hplace =>
      obtain ⟨⟨rest, hready⟩, -⟩ := State.readyHead_eq_some.mp hr
      obtain ⟨hroom, hfree⟩ := State.parkingPlace_some hplace
      have hcredit := hready.creditFree
      obtain ⟨-, -, head, -⟩ := hready
      exact .head (.park head hcredit hfree hroom rfl) (Acts.settle _ _ _)

theorem acts_execLockHead (h : execLockHead p s = .next t) : Acts sound ⟨s, [], none⟩ ⟨t, [], none⟩ := by
  cases h
  split
  · split
    · exact Acts.judgeHead p
    · exact .refl
  next r e x hlock =>
    obtain ⟨hr, -⟩ := State.readyLockKind_eq_some.mp hlock
    obtain ⟨hengaged, hrun⟩ := State.engaged_takeHead hr
    exact (Acts.takeReady hr _).trans ((Acts.modEntry fun y _ =>
      State.entryKept_lock r.lease y.releaseReason hengaged (.inr hrun)).trans (Acts.settle _ _ _))

theorem acts_execUnlockHead (h : execUnlockHead p s = .next t) : Acts sound ⟨s, [], none⟩ ⟨t, [], none⟩ := by
  cases h
  split
  · exact .refl
  next r e x hunlock =>
    obtain ⟨hr, -, hx, -⟩ := State.readyLockKind_eq_some.mp hunlock
    split
    next ho =>
      have hrelease := Acts.release (sound := sound) (s := s.modPort p PortUnit.takeHead) (held := none)
        (recs := [(p, plainRecord r .ok none)]) (reason := .normal) hx (by simp [ho]) (by simp)
      exact (Acts.takeReady hr _).trans (hrelease.trans (Acts.settle _ _ _))
    · exact (Acts.takeReady hr _).trans (Acts.settle _ _ _)

theorem acts_execBreakHead (h : execBreakHead p s = .next t) : Acts sound ⟨s, [], none⟩ ⟨t, [], none⟩ := by
  cases h
  split
  · exact .refl
  next r e x hbreak =>
    obtain ⟨hr, -, hx, -⟩ := State.readyLockKind_eq_some.mp hbreak
    obtain ⟨hengaged, hrun⟩ := State.engaged_takeHead hr
    have hended (rec : Completion) : Acts sound ⟨s, [], none⟩
        ⟨(s.modPort p PortUnit.takeHead).settle [(p, rec)], [], none⟩ :=
      (Acts.takeReady hr rec).trans (Acts.settle _ _ _)
    simp only
    split
    · exact hended _
    next q ho =>
      split
      · exact hended _
      · split
        · exact hended _
        · refine (Acts.takeReady hr (plainRecord r .ok (some .broken))).trans
            (.trans ?_ (Acts.settle _ _ _))
          have hengaged' : ((s.modPort p PortUnit.takeHead).markLockLost e q).engaged p := by
            rw [State.markLockLost_eq]
            exact hengaged
          have hrun' : ((s.modPort p PortUnit.takeHead).markLockLost e q).phase = .run := by
            rw [State.markLockLost_eq]
            exact hrun
          refine (Acts.markLockLost e q).trans ((Acts.modEntry fun y _ =>
            State.entryKept_lock r.lease .broken hengaged' (.inr hrun')).trans (Acts.raise ?_ q .lockBroken))
          rintro ⟨-, hl, -⟩
          rw [State.phase_modEntry, hrun'] at hl
          cases hl

theorem acts_execEndWithoutBus (h : execEndWithoutBus p s = .next t) : Acts sound ⟨s, [], none⟩ ⟨t, [], none⟩ := by
  cases h
  split
  next st r hst hr =>
    obtain ⟨rest, head⟩ := List.head?_eq_some_iff.mp hr
    have hcredit : (s.port p).creditFree = true := by
      unfold State.endStatus at hst
      split at hst
      next hq => exact State.creditFree_of_queued hq.2.2
      next => cases hst
    exact .head (.take head hcredit _) (Acts.settle _ _ _)
  · exact .refl

/-! ### The expiries (R58, R70, R92, R93) -/

theorem acts_execLeaseExpiry {e : EntryNo} (h : execLeaseExpiry e s = .next t) :
    Acts sound ⟨s, [], none⟩ ⟨t, [], none⟩ := by
  cases h
  cases hx : s.entry e with
  | none => exact .refl
  | some x =>
    cases ho : x.owner with
    | none => simp only [ho]; exact .refl
    | some q =>
      simp only [ho]
      split
      · have hx' : (s.markLockLost e q).entry e = some x := by rw [State.markLockLost_eq]; exact hx
        have hstill : ¬ (sound ∧ ((s.markLockLost e q).release e .expired).1.blank) := by
          rintro ⟨-, -, hempty⟩
          exact State.entry_release_ne_none hx' .expired (hempty e)
        have hrelease := Acts.release (sound := sound) (recs := []) (held := none) (reason := .expired) hx'
          (by simp [ho]) (by simp)
        exact (Acts.markLockLost e q).trans
          (hrelease.trans ((Acts.raise hstill q .leaseExpired).trans (Acts.settle _ _ _)))
      · exact .refl

theorem acts_execDeferralExpiry (h : execDeferralExpiry p s = .next t) : Acts sound ⟨s, [], none⟩ ⟨t, [], none⟩ := by
  cases h
  split
  · exact .refl
  next r hr =>
    obtain ⟨rest, head⟩ := List.head?_eq_some_iff.mp (State.deferralExpired_eq_some.mp hr).1
    split
    next hcredit => exact .head (.take head hcredit _) (Acts.settle _ _ _)
    · exact Acts.modPort ⟨rfl, rfl, rfl, rfl, fun _ => id, fun hq => by simp [head] at hq, fun _ => id, fun _ => rfl,
        id, fun _ => id⟩

theorem acts_execBlockExpiry {k : SlotNo} (h : execBlockExpiry k s = .next t) :
    Acts sound ⟨s, [], none⟩ ⟨t, [], none⟩ := by
  cases h
  split
  · exact .refl
  next q hq =>
    split
    · exact .head (.endPoll hq _) (Acts.settle _ _ _)
    · exact .refl

theorem acts_execPollDue {k : SlotNo} (h : execPollDue k s = .next t) : Acts sound ⟨s, [], none⟩ ⟨t, [], none⟩ := by
  cases h
  split
  · exact .refl
  next q hq =>
    split
    · exact (Acts.setPoll (q' := { q with state := .due }) hq rfl).trans (Acts.settle _ _ _)
    · exact .refl

end

end Sys2Proof.Machine

/-! SUPPORT. The bus, the loader and the tick as acts: that every command is made of acts, and the statements about what
every step keeps. -/

namespace Sys2Proof.Machine

section
variable {sound : Prop} {s t : State} {recs : List (Port × Completion)}

/-! ### Reports (R16, R64 to R66, R112) -/

/-- In RUN nothing is known to be blank. -/
theorem State.not_blank_of_run (h : sound → s.phase = .run) : ¬ (sound ∧ s.blank) := by
  rintro ⟨hs, hl, -⟩
  rw [h hs] at hl
  cases hl

/-- An address outcome: the count of the entry, and an event in its watchers (R16). -/
theorem Acts.relayHealth {held : Option Port} (e : EntryNo) (out : AddressOutcome) (hrun : sound → s.phase = .run) :
    Acts sound ⟨s, recs, held⟩ ⟨s.relayHealth e out, recs, held⟩ := by
  have hcount : Acts sound ⟨s, recs, held⟩
      ⟨s.modEntry e fun x => { x with nackCount := countAfter x.nackCount out }, recs, held⟩ :=
    Acts.modEntry fun _ _ => State.entryKept_nackCount _ hrun
  have hraise : ¬ (sound ∧ (s.modEntry e fun x => { x with nackCount := countAfter x.nackCount out }).blank) :=
    State.not_blank_of_run hrun
  unfold State.relayHealth
  split
  · exact .refl
  · simp only
    split
    · exact hcount.trans (Acts.raiseIn hraise _ _)
    · split
      · exact hcount.trans (Acts.raiseIn hraise _ _)
      · exact hcount

theorem phase_relayHealth (e : EntryNo) (out : AddressOutcome) : (s.relayHealth e out).phase = s.phase := by
  rw [State.relayHealth_eq]

/-- The report of a request's transaction: health, a write notice and the record (R64, R65). -/
theorem acts_requestReport {c : Current} (hc : s.scheduler.current = some c) (hslot : c.slot = none) (r : Report)
    (hrun : sound → s.phase = .run) :
    Acts sound ⟨s, [], none⟩ ⟨(s.setCurrent none).requestReport c r, [], none⟩ := by
  have hended : Acts sound ⟨s, [], none⟩
      ⟨s.setCurrent none, if c.discard then [] else [(c.port, busRecord c r)], none⟩ := by
    cases hd : c.discard with
    | true => exact .single (.clear fun c' hc' => by rw [hc] at hc'; cases hc'; exact .inr hd)
    | false => exact .single (.finish (recs := []) hc hslot hd _)
  have hrelay := Acts.relayHealth (sound := sound) (s := s.setCurrent none) (held := none)
    (recs := if c.discard then [] else [(c.port, busRecord c r)]) c.entry (outcomeOf r.status) hrun
  have hrun' : sound → ((s.setCurrent none).relayHealth c.entry (outcomeOf r.status)).phase = .run := fun hs => by
    rw [phase_relayHealth]
    exact hrun hs
  have hnotice (recs : List (Port × Completion)) :
      Acts sound ⟨(s.setCurrent none).relayHealth c.entry (outcomeOf r.status), recs, none⟩
        ⟨if (c.kind = .write ∨ c.kind = .send) ∧ 1 ≤ r.count then
            ((s.setCurrent none).relayHealth c.entry (outcomeOf r.status)).writeNotice c.entry c.port
          else (s.setCurrent none).relayHealth c.entry (outcomeOf r.status), recs, none⟩ := by
    split
    · exact .single (.notice c.entry c.port hrun')
    · exact .refl
  exact hended.trans (hrelay.trans ((hnotice _).trans (Acts.settle _ _ _)))

/-- A slot's own answer to its report (R66, R96, R97). -/
theorem acts_slotReport (s : State) (k : SlotNo) (r : Report) :
    Acts sound ⟨s, [], none⟩ ⟨(s.slotReport k r).1, (s.slotReport k r).2, none⟩ := by
  unfold State.slotReport
  split
  · exact .refl
  next q hq =>
    have hkey := q.key_answer s.timeBase r
    split
    next q' hanswer =>
      rw [hanswer] at hkey
      exact Acts.setPoll hq hkey
    next => exact .single (.endPoll hq _)

/-- The report of a poll's iteration (R66). -/
theorem acts_iterationReport {c : Current} (hc : s.scheduler.current = some c) {k : SlotNo} (hslot : c.slot = some k)
    (r : Report) (hrun : sound → s.phase = .run) :
    Acts sound ⟨s, [], none⟩ ⟨(s.setCurrent none).iterationReport c k r, [], none⟩ := by
  have hcleared : Act sound ⟨s, [], none⟩ ⟨s.setCurrent none, [], none⟩ :=
    .clear fun c' hc' => by rw [hc] at hc'; cases hc'; exact .inl (by simp [hslot])
  have hrelay := Acts.relayHealth (sound := sound) (s := s.setCurrent none) (held := none) (recs := []) c.entry
    (outcomeOf r.status) hrun
  refine .head hcleared (hrelay.trans ?_)
  unfold State.iterationReport
  simp only
  split
  · exact Acts.settle _ _ _
  · exact (acts_slotReport _ k r).trans (Acts.settle _ _ _)

theorem acts_schedulerReport (r : Report) (hrun : sound → s.phase = .run) :
    Acts sound ⟨s, [], none⟩ ⟨s.schedulerReport r, [], none⟩ := by
  unfold State.schedulerReport
  split
  · exact Acts.settle _ _ _
  next c hc =>
    split
    next hslot => exact acts_requestReport hc hslot r hrun
    next k hslot => exact acts_iterationReport hc hslot r hrun

/-! ### The loader (R121, R163 to R167) -/

theorem acts_startLoaderRead (s : State) : Acts sound ⟨s, [], none⟩ ⟨s.startLoaderRead, [], none⟩ := by
  unfold State.startLoaderRead
  split
  · exact .refl
  · exact Acts.setEngine _

theorem acts_finishLoad (hload : sound → s.phase = .loading) : Acts sound ⟨s, [], none⟩ ⟨s.finishLoad, [], none⟩ := by
  unfold State.finishLoad
  split
  · exact .single (.loadFault _ hload)
  next hvalid => exact .single (.commit hvalid hload)

theorem acts_loaderReport (r : Report) (hload : sound → s.phase = .loading) :
    Acts sound ⟨s, [], none⟩ ⟨s.loaderReport r, [], none⟩ := by
  unfold State.loaderReport
  split
  · unfold State.stage
    simp only
    refine .head (.outside (t := { s with loader := { s.loader with
      staging := s.loader.staging ++ r.data,
      walk := (walkFrom (s.loader.staging ++ r.data) (s.loader.staging ++ r.data).length s.loader.walk).2.1 } })
      rfl (.inl rfl)) ?_
    split
    · exact acts_finishLoad hload
    · exact acts_startLoaderRead _
  · exact .single (.loadFault _ hload)
  · exact .single (.loadFault _ hload)
  · split
    · exact .single (.loadFault _ hload)
    · exact .refl

/-! ### The ends of bus work (R112, R117 to R120) -/

/-- Entering FAULTED: what the engine does, and what the Notify Unit is told outside LOADING (R120). -/
theorem acts_enterFaulted (s : State) : Acts sound ⟨s, [], none⟩ ⟨s.enterFaulted, [], none⟩ := by
  rw [State.enterFaulted_eq_setEngine]
  refine .trans ?_ (Acts.setEngine _)
  unfold State.tellBusFault
  split
  next h => exact Acts.raiseIn (fun hb => h.2 hb.2.1) _ _
  · exact .refl

theorem acts_engineAfter (s : State) (st : BusStatus) (startFailed : Bool) :
    Acts sound ⟨s, [], none⟩ ⟨s.engineAfter st startFailed, [], none⟩ := by
  unfold State.engineAfter
  split
  · exact acts_enterFaulted s
  · split <;> exact Acts.setEngine _

theorem phase_enterFaulted (s : State) : s.enterFaulted.phase = s.phase := by
  rw [State.enterFaulted_eq_setEngine]
  unfold State.tellBusFault
  split <;> simp [State.raiseAll, State.raiseIn]

theorem phase_engineAfter (s : State) (st : BusStatus) (startFailed : Bool) :
    (s.engineAfter st startFailed).phase = s.phase := by
  unfold State.engineAfter
  split
  · exact phase_enterFaulted s
  · split <;> rfl

/-- A transaction that ends: the scheduler's does so in RUN, the loader's in LOADING (R112). -/
theorem acts_endTransaction {tr : Transaction} (hs : sound → s.busSound) (ht : s.engine.transaction = some tr)
    (st : BusStatus) (startFailed : Bool) :
    Acts sound ⟨s, [], none⟩ ⟨s.endTransaction tr st startFailed, [], none⟩ := by
  have howner : s.engine.owner = some tr.requester := by simp [Engine.owner, ht]
  have hphase := phase_engineAfter s st startFailed
  unfold State.endTransaction
  cases hq : tr.requester with
  | scheduler =>
    refine (acts_engineAfter s st startFailed).trans (acts_schedulerReport _ fun hsound => ?_)
    obtain ⟨hcur, hrun, -⟩ := State.busOwned_iff.mp (hs hsound).2
    have hsome := hcur.mpr (by rw [howner, hq])
    rw [hphase]
    by_contra hne
    simp [hrun hne] at hsome
  | loader =>
    refine (acts_engineAfter s st startFailed).trans (acts_loaderReport _ fun hsound => ?_)
    obtain ⟨-, -, hloader, -⟩ := State.busOwned_iff.mp (hs hsound).2
    rw [hphase]
    exact hloader (by rw [howner, hq])

/-- A recovery that ends, by its cause (R115, R117 to R121, R163, R165). -/
theorem acts_recoveryEnds {r : Recovery} (hs : sound → s.busSound) (hr : s.engine.recovery = some r) (ok : Bool) :
    Acts sound ⟨s, [], none⟩ ⟨s.recoveryEnds r.cause ok, [], none⟩ := by
  unfold State.recoveryEnds
  cases hc : r.cause with
  | blockedStart =>
    cases ok with
    | true => exact Acts.setEngine _
    | false =>
      simp only [Bool.false_eq_true, if_false]
      split
      · exact .refl
      next tr ht => exact acts_endTransaction hs ht _ _
  | afterStuck =>
    have hfree : Acts sound ⟨s, [], none⟩ ⟨if ok then s.setEngine s.engine.idle else s.enterFaulted, [], none⟩ := by
      split
      · exact Acts.setEngine _
      · exact acts_enterFaulted s
    have hphase : (if ok then s.setEngine s.engine.idle else s.enterFaulted).phase = s.phase := by
      split
      · rfl
      · exact phase_enterFaulted s
    simp only
    split
    next hwaits =>
      exact hfree.tail (.loadFault _ fun _ => hphase.trans (State.loaderWaits_iff.mp hwaits).1)
    · exact hfree.trans (Acts.settle _ _ _)
  | retry =>
    cases ok with
    | true =>
      simp only [if_true]
      refine (Acts.setEngine { s.engine.idle with fault := false }).trans ?_
      split
      · exact Acts.settle _ _ _
      next hl =>
        have hraise : ¬ (sound ∧ (s.setEngine { s.engine.idle with fault := false }).blank) := fun hb => hl hb.2.1
        exact (Acts.raiseIn hraise (fun _ => true) .busOk).trans (Acts.settle _ _ _)
    | false => exact (acts_enterFaulted s).trans (Acts.settle _ _ _)
  | startUp =>
    have hload (hsound : sound) : s.phase = .loading := by
      obtain ⟨-, -, -, hstart⟩ := State.busOwned_iff.mp (hs hsound).2
      exact hstart (by simp [Engine.startsUp, hr, hc])
    cases ok with
    | true =>
      exact .head (.outside (t := { s with
        engine := s.engine.idle, loader := { s.loader with step := .reading } }) rfl (.inr ⟨by simp, hload⟩))
        (acts_startLoaderRead _)
    | false => exact (acts_enterFaulted s).tail (.loadFault _ fun hsound => (phase_enterFaulted s).trans (hload hsound))

/-- A report step: the wires are read, the outcome is taken, and the engine goes on. -/
theorem acts_afterReading {α : Type} {bus : BusRead} {ended : State → Option α} {act : α → State → State}
    (hs : sound → s.busSound)
    (hact : ∀ u x, (sound → u.busSound) → ended u = some x → Acts sound ⟨u, [], none⟩ ⟨act x u, [], none⟩) :
    Acts sound ⟨s, [], none⟩ ⟨s.afterReading bus ended act, [], none⟩ := by
  unfold State.afterReading
  simp only
  refine (Acts.setEngine (s.engine.reads bus.samples).1).trans ?_
  split
  · exact Acts.setEngine _
  next x hx =>
    exact (hact _ x (fun hsound => State.busSound_reads (hs hsound) bus.samples) hx).trans (Acts.busRuns _ _)

/-- A report step of a transaction, whoever asked for it. -/
theorem acts_report {bus : BusRead} {ended : State → Option (Transaction × BusStatus)} (hs : sound → s.busSound)
    (hended : ∀ u x, ended u = some x → ∃ q, u.engine.ended q = some x) :
    Acts sound ⟨s, [], none⟩ ⟨s.afterReading bus ended fun x s1 => s1.endTransaction x.1 x.2 false, [], none⟩ :=
  acts_afterReading hs fun u x hu hx => by
    obtain ⟨q, hq⟩ := hended u x hx
    exact acts_endTransaction hu (Engine.ended_transaction hq) _ _

theorem acts_execRecoveryComplete {bus : BusRead} (hs : sound → s.busSound) (h : execRecoveryComplete bus s = .next t) :
    Acts sound ⟨s, [], none⟩ ⟨t, [], none⟩ := by
  cases h
  refine acts_afterReading hs fun u x hu hx => ?_
  unfold State.recoveryEnded at hx
  split at hx
  · cases hx
  next r hr =>
    obtain ⟨ok, -, rfl⟩ := Option.map_eq_some_iff.mp hx
    exact acts_recoveryEnds hu hr ok

theorem acts_execStretchLimit {bus : BusRead} (hs : sound → s.busSound) (h : execStretchLimit bus s = .next t) :
    Acts sound ⟨s, [], none⟩ ⟨t, [], none⟩ := by
  cases h
  split
  · refine .trans ?_ (Acts.busRuns _ _)
    unfold State.stretchLimit
    split
    next r hr => exact acts_recoveryEnds hs hr false
    · split
      · exact .refl
      next tr ht =>
        split
        · exact Acts.setEngine _
        · exact acts_endTransaction hs ht _ _
  · exact .refl

theorem acts_execRetry {bus : BusRead} (h : execRetry bus s = .next t) : Acts sound ⟨s, [], none⟩ ⟨t, [], none⟩ := by
  cases h
  split
  · exact (Acts.setEngine _).trans (Acts.busRuns _ _)
  · exact .refl

/-! ### Grants (R56, R62, R79, R95) -/

theorem Acts.reloadIfOwner {held : Option Port} (e : EntryNo) (p : Port) :
    Acts sound ⟨s, recs, held⟩ ⟨s.reloadIfOwner e p, recs, held⟩ :=
  Acts.modEntry fun x _ => by
    split
    next ho => exact State.entryKept_reload ho
    · exact s.entryKept_refl sound x

/-- A grant to a port position: the owner's lease is reloaded, the head goes onto the bus, and the turn moves (R62,
R79). -/
theorem acts_grantPort {p : Port} {r : Request} {e : EntryNo} {x : Entry} (hc : s.portCandidate p = some (r, e, x))
    (hrun : s.phase = .run) (hidle : sound → s.scheduler.current = none) :
    Acts sound ⟨s, [], none⟩ ⟨s.grantPort p r e x, [], none⟩ := by
  obtain ⟨⟨rest, hready⟩, -⟩ := State.readyHead_eq_some.mp (State.portCandidate_eq_some.mp hc).1
  have hcredit := hready.creditFree
  obtain ⟨-, -, head, -⟩ := hready
  have hlaunch := Act.launch (sound := sound) (s := s.reloadIfOwner e p) (recs := []) (held := none) (p := p)
    (c := { port := p, slot := none, tag := r.tag, kind := r.kind, entry := e, ownedAtGrant := x.owner = some p,
            lockLost := false, discard := false }) head hcredit hidle rfl
  exact (Acts.reloadIfOwner e p).trans (.head hlaunch
    (.head (.turn (.port p) hrun) ((Acts.setEngine _).trans (Acts.settle _ _ _))))

/-- A grant to position P: the poll runs, the owner's lease is reloaded, and the turn moves (R62, R79, R95). -/
theorem acts_grantPoll {k : SlotNo} {q : Poll} (x : Entry) (hq : s.poll k = some q) (hrun : s.phase = .run)
    (hidle : sound → s.scheduler.current = none) : Acts sound ⟨s, [], none⟩ ⟨s.grantPoll k q x, [], none⟩ := by
  have hserve := Act.serve (sound := sound)
    (s := (s.setPoll k (some { q with state := .running, blockTimer := none })).reloadIfOwner q.entry q.port)
    (recs := []) (held := none) (k := k) (q := { q with state := .running, blockTimer := none })
    (c := { port := q.port, slot := some k, tag := q.tag, kind := .poll, entry := q.entry, ownedAtGrant := false,
            lockLost := false, discard := false }) (by simp [State.reloadIfOwner]) hidle rfl rfl
  exact (Acts.setPoll (q' := { q with state := .running, blockTimer := none }) hq rfl).trans
    ((Acts.reloadIfOwner q.entry q.port).trans (.head hserve
      (.head (.turn .poll hrun) ((Acts.setEngine _).trans (Acts.settle _ _ _)))))

theorem acts_execGrant {bus : BusRead} (hs : sound → s.busSound) (h : execGrant bus s = .next t) :
    Acts sound ⟨s, [], none⟩ ⟨t, [], none⟩ := by
  cases h
  split
  · exact .refl
  next pos hg =>
    obtain ⟨hrun, hready, -⟩ := State.grantChoice_eq_some.mp hg
    have hidle (hsound : sound) : s.scheduler.current = none :=
      (hs hsound).current_eq_none (by simp [Engine.owner, (hs hsound).1.transaction_eq_none (by simp [hready])])
    refine .trans ?_ (Acts.busRuns _ _)
    unfold State.grantAt
    split
    · split
      · exact .refl
      next hc => exact acts_grantPort hc hrun hidle
    · split
      · exact .refl
      · split
        · exact .refl
        next q hq =>
          split
          · exact .refl
          next x _ => exact acts_grantPoll x hq hrun hidle

/-! ### Time and start-up (R1, R160, R163) -/

theorem acts_execLoaderStart {a b : Bool} {bus : BusRead} (h : execLoaderStart a b bus s = .next t) :
    Acts sound ⟨s, [], none⟩ ⟨t, [], none⟩ := by
  cases h
  split
  next hp =>
    exact .head (.outside (t := s.loaderStart a b) rfl (.inr ⟨by simp [State.loaderStart], fun _ => hp.1⟩))
      (Acts.busRuns _ _)
  · exact .refl

theorem acts_tickTime (s : State) : Acts sound ⟨s, [], none⟩ ⟨s.tickTime, [], none⟩ := by
  unfold State.tickTime
  split
  · exact .single (.outside rfl (.inl rfl))
  · exact .single (.outside rfl (.inl rfl))

/-- A head's timer moves at a tick (R58). -/
theorem State.keptIn_tickPort (loading : Prop) (s : State) (p : Port) :
    (s.port p).keptIn loading (s.tickPort p (s.port p)) := by
  unfold State.tickPort
  split
  · exact ⟨rfl, rfl, rfl, rfl, fun _ h => by simp [h], fun _ => id, fun _ => id, fun _ => rfl, id, fun _ => id⟩
  · exact PortUnit.keptIn_refl _ _

theorem acts_execTick {bus : BusRead} (h : execTick bus s = .next t) : Acts sound ⟨s, [], none⟩ ⟨t, [], none⟩ := by
  cases h
  have hpoll (q : Poll) : q.tick.key = q.key := by
    unfold Poll.tick
    split <;> rfl
  exact (Acts.mapPorts fun p => s.keptIn_tickPort _ p).trans ((Acts.mapEntries State.entryKept_tick).trans
    ((Acts.mapPolls hpoll).trans ((Acts.setEngine _).trans (acts_tickTime _))))

/-! ### Every command -/

/-- Every command is made of acts. -/
theorem acts_exec {c : Instr} (hs : sound → s.busSound) (h : exec c s = .next t) :
    Acts sound ⟨s, [], none⟩ ⟨t, [], none⟩ := by
  match c, h with
  | .powerOn high, h => cases h; exact .single (.restart s .powerOn high)
  | .resetnFall, h => cases h; exact .single (.restart s .pin false)
  | .loaderStart a b bus, h => exact acts_execLoaderStart h
  | .tick bus, h => exact acts_execTick h
  | .frameOpen p, h => exact acts_execFrameOpen h
  | .responseSnapshot p b, h => exact acts_execResponseSnapshot h
  | .ignoredFrame p bits, h => exact acts_execIgnoredFrame h
  | .unknownCommand p bits, h => exact acts_execUnknownCommand h
  | .status p bits, h => cases h; exact Acts.frameEnd fun f u _ => Acts.setResult p .done
  | .submit p bits, h => cases h; exact Acts.frameEnd fun f u hu => acts_submitRule f hu
  | .fetch p bits, h => cases h; exact Acts.frameEnd fun f u _ => acts_fetchRule f u
  | .cancel p bits, h => cases h; exact Acts.frameEnd fun f u hu => acts_cancelRule f hu
  | .events p bits, h => cases h; exact Acts.frameEnd fun f u _ => acts_eventsRule f u
  | .ackEvents p bits, h => cases h; exact Acts.frameEnd fun f u _ => acts_ackEventsRule f u
  | .setMask p bits, h => cases h; exact Acts.frameEnd fun f u hu => acts_setMaskRule f hu
  | .changes p bits, h => cases h; exact Acts.frameEnd fun f u _ => acts_changesRule f u
  | .watch p bits, h => cases h; exact Acts.frameEnd fun f u hu => acts_watchRule f hu
  | .unwatch p bits, h => cases h; exact Acts.frameEnd fun f u _ => acts_unwatchRule f u
  | .renew p bits, h => cases h; exact Acts.frameEnd fun f u _ => acts_renewRule f u
  | .dirRead p bits, h => cases h; exact Acts.frameEnd fun f u _ => Acts.setResult p _
  | .dirWrite p bits, h => cases h; exact Acts.frameEnd fun f u hu => acts_dirWriteRule f hu
  | .dirClear p bits, h => cases h; exact Acts.frameEnd fun f u _ => acts_dirClearRule f u
  | .seal p bits, h => cases h; exact Acts.frameEnd fun f u hu => acts_sealRule f hu
  | .hold p bits, h => cases h; exact Acts.frameEnd fun f u hu => acts_holdRule f hu
  | .release p bits, h => cases h; exact Acts.frameEnd fun f u hu => acts_releaseRule f hu
  | .restart p bits, h => cases h; exact Acts.frameEnd fun f u _ => acts_restartRule f u
  | .fenceHead p, h => exact acts_execFenceHead h
  | .pollParking p, h => exact acts_execPollParking h
  | .lockHead p, h => exact acts_execLockHead h
  | .unlockHead p, h => exact acts_execUnlockHead h
  | .breakHead p, h => exact acts_execBreakHead h
  | .endWithoutBus p, h => exact acts_execEndWithoutBus h
  | .grant bus, h => exact acts_execGrant hs h
  | .transactionComplete bus, h => cases h; exact acts_report hs fun u x hx => ⟨_, State.requestEnded_ended hx⟩
  | .pollIterationComplete bus, h => cases h; exact acts_report hs fun u x hx => ⟨_, State.iterationEnded_ended hx⟩
  | .loaderReadComplete bus, h => cases h; exact acts_report hs fun u x hx => ⟨_, hx⟩
  | .recoveryComplete bus, h => exact acts_execRecoveryComplete hs h
  | .leaseExpiry e, h => exact acts_execLeaseExpiry h
  | .deferralExpiry p, h => exact acts_execDeferralExpiry h
  | .blockExpiry k, h => exact acts_execBlockExpiry h
  | .pollDue k, h => exact acts_execPollDue h
  | .stretchLimit bus, h => exact acts_execStretchLimit hs h
  | .retry bus, h => exact acts_execRetry h

/-- A step is made of acts: the command leaves the queue of commands, and is carried out. -/
theorem acts_step (hs : sound → s.busSound) (h : step s = .next t) : Acts sound ⟨s, [], none⟩ ⟨t, [], none⟩ := by
  unfold step at h
  split at h
  next => cases h; exact .refl
  next c rest _ =>
    exact .head (.outside (t := { s with pending := rest }) rfl (.inl rfl))
      (acts_exec (s := { s with pending := rest }) hs h)

end

/-- Settles O54, act by act: outside RUN no act can put anything where nothing is. -/
theorem stepKeepsQuietOutsideRun : Obligations.StepKeepsQuietOutsideRun := by
  intro s t hs hq h
  have hquiet : (⟨t, [], none⟩ : Midway).quiet := (acts_step (sound := s.busSound) id h).keep (P := Midway.quiet)
    (fun ha hm => ha.quiet hs hm) fun hp => ⟨State.quietOutsideRun_iff.mp hq hp, rfl⟩
  exact State.quietOutsideRun_iff.mpr fun hp => (hquiet hp).1

/-- Settles O55, act by act and together with the quiet outside RUN: no act gives anything to a port that is not
ACTIVE, and a port leaves ACTIVE only with all it has taken away. -/
theorem stepKeepsIdlePortsBare : Obligations.StepKeepsIdlePortsBare := by
  intro s t hs hq hl hi h
  have horderly : (⟨t, [], none⟩ : Midway).quiet ∧ (⟨t, [], none⟩ : Midway).orderly :=
    (acts_step (sound := s.busSound) id h).keep (P := fun m => m.quiet ∧ m.orderly)
      (fun ha hm => ⟨ha.quiet hs hm.1, ha.orderly hs hm.1 hm.2⟩)
      ⟨fun hp => ⟨State.quietOutsideRun_iff.mp hq hp, rfl⟩, Midway.orderly_iff.mpr ⟨hl, hi⟩⟩
  exact Midway.orderly_iff.mp horderly.2

/-- Settles O56, act by act: midway through a command a record that is still to join its queue keeps its credit. -/
theorem stepKeepsCreditsBalance : Obligations.StepKeepsCreditsBalance := by
  intro s t hs hb h
  exact State.balancedWith_nil.mp ((acts_step (sound := s.busSound) id h).keep
    (P := fun m => m.state.balancedWith m.recs) (fun ha => (ha.work hs).1) (State.balancedWith_nil.mpr hb))

/-- Settles O57, act by act: a tag moves from the queue to a slot or the bus and ends there; only SUBMIT brings a new
one. -/
theorem stepKeepsTagsDifferent : Obligations.StepKeepsTagsDifferent := by
  intro s t hs hd h
  exact (acts_step (sound := s.busSound) id h).keep (P := fun m => m.state.tagsDiffer) (fun ha => (ha.work hs).2) hd

/-- Settles O58, act by act: a lock is given with its whole lease, runs down, and leaves nothing of it when it ends. -/
theorem stepKeepsLocksSound : Obligations.StepKeepsLocksSound := by
  intro s t hl h
  exact (acts_step (sound := s.busSound) id h).keep (P := fun m => m.state.locksSound) (fun ha => ha.locksSound) hl

/-- Settles O59, act by act: a slot is filled by a DIR_WRITE that passed its checks or by a valid list alone. -/
theorem stepKeepsDirectorySound : Obligations.StepKeepsDirectorySound := by
  intro s t hd h
  exact (acts_step (sound := s.busSound) id h).keep (P := fun m => m.state.directorySound)
    (fun ha => ha.directorySound) hd

end Sys2Proof.Machine

/-! SUPPORT. The rules of RENEW, FETCH, DIR_CLEAR and SEAL, and the statements about them. -/

namespace Sys2Proof.Machine

section
variable {s : State} {p : Port} {f : FrameEnd}

/-- A slot written and a result stored on the closed frame's state. -/
theorem State.setEntry_closeFrame (s : State) (p : Port) (e : EntryNo) (x : Option Entry) (r : ResultCode) :
    ((s.closeFrame p).setEntry e x).setResult p r = (s.setPort p ((s.port p).afterFrame r)).setEntry e x := by
  rw [← State.setResult_closeFrame]
  rfl

/-! ### RENEW (R78) -/

theorem renewRule_owner (hp : s.phase ≠ .config) {e : EntryNo} {x : Entry} (he : (f.arg 0).toNat = e.val)
    (hx : s.entry e = some x) (ho : x.owner = some p) :
    renewRule p f s = (s.setEntry e (some x.reload)).setResult p .done := by
  simp only [renewRule, if_neg hp, entryOfByte_eq_some.mpr he, hx, Option.any_some, ho, decide_true, if_true,
    State.modEntry_eq hx]

theorem renewRule_notOwner (hp : s.phase ≠ .config)
    (h : 32 ≤ (f.arg 0).toNat ∨ ∃ e : EntryNo, (f.arg 0).toNat = e.val ∧ ∀ x, s.entry e = some x → x.owner ≠ some p) :
    renewRule p f s = s.setResult p .notOwner := by
  unfold renewRule
  rw [if_neg hp]
  obtain hn | ⟨e, he, hno⟩ := h
  · rw [entryOfByte_eq_none.mpr hn]
  · rw [entryOfByte_eq_some.mpr he]
    have hnone : ((s.entry e).any fun x => x.owner = some p) = false := by
      simpa only [Option.any_eq_false, decide_eq_false_iff_not] using hno
    simp only [hnone, Bool.false_eq_true, if_false]

/-! ### FETCH (R45, R46) -/

theorem fetchRule_held (hp : s.phase ≠ .config) (hh : f.heldSince = true) : fetchRule p f s = s.setResult p .held := by
  simp [fetchRule, hp, hh]

theorem fetchRule_empty (hp : s.phase ≠ .config) (hh : f.heldSince = false)
    (hr : f.response = .record none ∨ f.response = .absent) : fetchRule p f s = s.setResult p .empty := by
  rcases hr with hr | hr <;> simp [fetchRule, hp, hh, hr]

theorem fetchRule_record (hp : s.phase ≠ .config) (hh : f.heldSince = false) {r : Completion}
    (hr : f.response = .record (some r)) : fetchRule p f s =
      if r.length + 2 ≤ f.whole then
        (s.modPort p fun u => { u with completions := u.completions.tail }).setResult p .done
      else s.setResult p .done := by
  simp [fetchRule, hp, hh, hr]

/-! ### DIR_CLEAR and SEAL (R20, R169) -/

theorem dirClearRule_noEntry (hp : s.phase ≠ .run) (hl : (s.port p).level = 0) (hn : 32 ≤ (f.arg 0).toNat) :
    dirClearRule p f s = s.setResult p .noEntry := by
  simp [dirClearRule, hp, hl, entryOfByte_eq_none.mpr hn]

theorem dirClearRule_entry (hp : s.phase ≠ .run) (hl : (s.port p).level = 0) {e : EntryNo}
    (he : (f.arg 0).toNat = e.val) : dirClearRule p f s = (s.setEntry e none).setResult p .done := by
  simp [dirClearRule, hp, hl, entryOfByte_eq_some.mpr he]

theorem sealRule_config (hp : s.phase ≠ .run) (hl : (s.port p).level = 0) :
    sealRule p f s = { s with phase := .run }.setResult p .done := by
  simp [sealRule, hp, hl]

end

/-! ### The statements -/

/-- Settles O24: the two branches of RENEW's rule, by the owner of the entry that the frame names. -/
theorem renewReloadsLease : Obligations.RenewReloadsLease := by
  intro s p bits f n more h hrun
  have hp : (s.closeFrame p).phase ≠ .config := by simp [hrun]
  refine ⟨fun e x he hx ho => ?_, fun hno => exec_judged_result h (renewRule_notOwner hp hno)⟩
  exact (exec_judged h).trans (congrArg _ ((renewRule_owner (f := f.ending (s.port p) (n :: more)) hp he hx
    ho).trans (State.setEntry_closeFrame ..)))

/-- Settles O17: FETCH's rule by what the snapshot presented, and by how much of the record was clocked out. -/
theorem fetchTakesOrKeeps : Obligations.FetchTakesOrKeeps := by
  intro s p bits f args h hrun
  have hp : (s.closeFrame p).phase ≠ .config := by simp [hrun]
  refine ⟨fun hh => exec_judged_result h (fetchRule_held hp hh),
    fun hh hr => exec_judged_result h (fetchRule_empty hp hh hr), fun r hh hr => ?_⟩
  have hrule := fetchRule_record (p := p) (f := f.ending (s.port p) args) hp hh hr
  refine ⟨fun hw => (exec_judged h).trans (congrArg _ ((hrule.trans (if_pos hw)).trans ?_)),
    fun hw => exec_judged_result h (hrule.trans (if_neg (Nat.not_le.mpr hw)))⟩
  simp [State.closeFrame, State.setResult, State.modPort, PortUnit.afterFrame]

/-- Settles O26: the checks of the two rules in order, and what each writes. -/
theorem dirClearAndSeal : Obligations.DirClearAndSeal := by
  intro s p bits f
  refine ⟨fun n more h => ⟨fun hrun => ?_, fun hconfig hl => ?_, fun hconfig hl => ?_⟩,
    fun args h => ⟨fun hrun => ?_, fun hconfig hl => ?_, fun hconfig hl => ?_⟩⟩
  · exact exec_judged_result h (Command.rule_inRun (c := .dirClear) (s := s.closeFrame p) (by simp) hrun p _)
  · exact exec_judged_result h (Command.rule_aboveLevel0 (c := .dirClear) (by simp) (by simp [hconfig])
      (by simpa using hl) _)
  · have hp : (s.closeFrame p).phase ≠ .run := by simp [hconfig]
    have hl' : ((s.closeFrame p).port p).level = 0 := by simpa using hl
    refine ⟨fun hn => exec_judged_result h (dirClearRule_noEntry hp hl' hn), fun e he => ?_⟩
    exact (exec_judged h).trans (congrArg _ ((dirClearRule_entry
      (f := f.ending (s.port p) (n :: more)) hp hl' he).trans (State.setEntry_closeFrame ..)))
  · exact exec_judged_result h (Command.rule_inRun (c := .seal) (s := s.closeFrame p) (by simp) hrun p _)
  · exact exec_judged_result h (Command.rule_aboveLevel0 (c := .seal) (by simp) (by simp [hconfig])
      (by simpa using hl) _)
  · have hp : (s.closeFrame p).phase ≠ .run := by simp [hconfig]
    have hl' : ((s.closeFrame p).port p).level = 0 := by simpa using hl
    refine (exec_judged h).trans (congrArg _ ((sealRule_config (f := f.ending (s.port p) args) hp hl').trans ?_))
    rw [← State.setResult_closeFrame]
    rfl

end Sys2Proof.Machine

/-! SUPPORT. The request record of a SUBMIT frame, kind by kind, and the statement about it. -/

namespace Sys2Proof.Machine

/-! ### The tails that carry fields of their own (R24, R27) -/

/-- A request before its tail: the header fields of section 10.3, and nothing that a tail fills. -/
def requestHeader (tag : Byte) (k : Kind) (entry wait ih il len cond : Byte) : Request :=
  { tag := tag, kind := k, entry := entry, waitLimit := wait, index := wordOf ih il, length := len, condition := cond,
    data := [], mask := 0, matchByte := 0, count := 0, interval := 0, lease := 0 }

/-- The codes of the ten kinds are the bytes below 0x0A. -/
theorem kindOfByte_eq_none {b : Byte} (h : 0x0A ≤ b.toNat) : kindOfByte b = none := by
  simp only [kindOfByte, List.find?_eq_none]
  intro k _ hk
  rw [← of_decide_eq_true hk] at h
  revert h
  cases k <;> decide

/-- A request is decoded by its kind's tail. -/
theorem decodeRequest_eq (tag : Byte) (k : Kind) (entry wait ih il len cond : Byte) (tail : List Byte) :
    decodeRequest (tag :: kindCode k :: entry :: wait :: ih :: il :: len :: cond :: tail)
      = decodeTail k (requestHeader tag k entry wait ih il len cond) tail := by
  simp only [decodeRequest, kindOfByte_kindCode]
  rfl

theorem decodeTail_poll (r : Request) (tail : List Byte) : decodeTail .poll r tail =
    if tail.length = 5 ∧ r.condition.toNat ≤ 1
        ∧ 1 ≤ 256 * (tail.getD 2 0).toNat + (tail.getD 3 0).toNat
        ∧ 256 * (tail.getD 2 0).toNat + (tail.getD 3 0).toNat ≤ 4096 then
      some { r with mask := tail.getD 0 0, matchByte := tail.getD 1 0, count := wordOf (tail.getD 2 0) (tail.getD 3 0),
                    interval := tail.getD 4 0 }
    else none := by
  match tail with
  | [m, v, ch, cl, iv] =>
    simp only [decodeTail, toNat_wordOf]
    refine if_congr ?_ rfl rfl
    simp only [List.length_cons, List.length_nil, List.getD_cons_zero, List.getD_cons_succ, true_and]
    tauto
  | [] | [_] | [_, _] | [_, _, _] | [_, _, _, _] | _ :: _ :: _ :: _ :: _ :: _ :: _ => simp [decodeTail]

theorem decodeTail_lease {k : Kind} (hk : k = .lock ∨ k = .brk) (r : Request) (tail : List Byte) : decodeTail k r tail =
    if tail.length = 1 ∧ tail.getD 0 0 ≠ 0 then some { r with lease := tail.getD 0 0 } else none := by
  match tail with
  | [l] => rcases hk with rfl | rfl <;> simp [decodeTail]
  | [] | _ :: _ :: _ => rcases hk with rfl | rfl <;> simp [decodeTail]

/-- No tail changes the header. -/
theorem header_decodeTail {k : Kind} {r r' : Request} {tail : List Byte} (h : decodeTail k r tail = some r') :
    r'.tag = r.tag ∧ r'.kind = r.kind ∧ r'.entry = r.entry ∧ r'.waitLimit = r.waitLimit ∧ r'.index = r.index
      ∧ r'.length = r.length ∧ r'.condition = r.condition := by
  cases k with
  | poll =>
    rw [decodeTail_poll, Option.ite_none_right_eq_some] at h
    cases h.2
    exact ⟨rfl, rfl, rfl, rfl, rfl, rfl, rfl⟩
  | lock =>
    rw [decodeTail_lease (.inl rfl), Option.ite_none_right_eq_some] at h
    cases h.2
    exact ⟨rfl, rfl, rfl, rfl, rfl, rfl, rfl⟩
  | brk =>
    rw [decodeTail_lease (.inr rfl), Option.ite_none_right_eq_some] at h
    cases h.2
    exact ⟨rfl, rfl, rfl, rfl, rfl, rfl, rfl⟩
  | read | write | send | recv | probe | unlock | fence =>
    simp only [decodeTail, Option.ite_none_right_eq_some] at h
    cases h.2
    exact ⟨rfl, rfl, rfl, rfl, rfl, rfl, rfl⟩

/-- A WRITE and a SEND carry their tail as data. -/
theorem data_decodeTail {k : Kind} (hk : k = .write ∨ k = .send) {r r' : Request} {tail : List Byte}
    (h : decodeTail k r tail = some r') : r'.data = tail := by
  rcases hk with rfl | rfl
  all_goals
    simp only [decodeTail, Option.ite_none_right_eq_some] at h
    cases h.2
    rfl

/-- Settles O15: the tail of each kind fits or it does not, and fills the fields that the kind carries. -/
theorem wellFormedRequests : Obligations.WellFormedRequests := by
  intro tag entry wait ih il len cond tail k
  rw [decodeRequest_eq]
  refine ⟨?suits, fun r h => ?fields, rfl, fun kind hkind => ?unknown⟩
  case suits =>
    cases k with
    | poll => simp [decodeTail_poll, requestHeader]
    | lock => simp [decodeTail_lease (.inl rfl)]
    | brk => simp [decodeTail_lease (.inr rfl)]
    | read | write => exact Option.isSome_ite.trans (by simp [requestHeader, and_assoc])
    | send | recv | probe | unlock | fence => simp [decodeTail]
  case fields =>
    obtain ⟨htag, hkind, hentry, hwait, hindex, hlength, hcond⟩ := header_decodeTail h
    refine ⟨htag, hkind, hentry, hwait, (congrArg _ hindex).trans (toNat_wordOf ih il), hlength, hcond,
      fun hk => data_decodeTail hk h, fun hk => ?_, fun hk => ?_⟩
    · rw [hk, decodeTail_poll, Option.ite_none_right_eq_some] at h
      cases h.2
      exact ⟨rfl, rfl, toNat_wordOf _ _, rfl⟩
    · rw [decodeTail_lease hk, Option.ite_none_right_eq_some] at h
      cases h.2
      rfl
  case unknown => simp only [decodeRequest, kindOfByte_eq_none hkind]

end Sys2Proof.Machine

/-! SUPPORT. The access check: the window that holds a range, the right to it, and the statement about both. -/

namespace Sys2Proof.Machine

/-! ### The window that holds a range (R6, R11) -/

/-- The window holds both ends of the range from `lo` to `hi` (R11). -/
def Window.spans (w : Window) (lo hi : Nat) : Prop := w.first.toNat ≤ lo ∧ hi ≤ w.last.toNat

/-- The windows of a valid entry lie one after the other (R6). -/
theorem windows_pairwise : ∀ {ws : List Window}, windowsAscend ws = true →
    (∀ w ∈ ws, w.first.toNat ≤ w.last.toNat) → ws.Pairwise fun w v => w.last.toNat < v.first.toNat
  | [], _, _ => .nil
  | [_], _, _ => by simp
  | w :: v :: rest, h, hw => by
    rw [windowsAscend, Bool.and_eq_true, decide_eq_true_eq] at h
    have htail := windows_pairwise h.2 fun x hx => hw x (List.mem_cons_of_mem _ hx)
    refine List.pairwise_cons.mpr ⟨fun x hx => ?_, htail⟩
    obtain rfl | hx := List.mem_cons.mp hx
    · exact h.1
    · have hvx := (List.pairwise_cons.mp htail).1 x hx
      have hv := hw v (by simp)
      omega

/-- No two windows of a valid entry hold the same range. -/
theorem Entry.eq_of_spans {x : Entry} (hx : x.valid = true) {lo hi : Nat} (hlo : lo ≤ hi) {w v : Window}
    (hw : w ∈ x.windows) (hv : v ∈ x.windows) (hws : w.spans lo hi) (hvs : v.spans lo hi) : w = v := by
  simp only [Entry.valid, windowsValid, Bool.and_eq_true, List.all_eq_true, decide_eq_true_eq] at hx
  obtain ⟨-, ⟨⟨-, hall⟩, hascend⟩, -⟩ := hx
  have hpairs := windows_pairwise hascend fun w hw => (hall w hw).1
  have happart {w v : Window} (hlt : w.last.toNat < v.first.toNat) (hw : w.spans lo hi) (hv : v.spans lo hi) :
      False := by
    have := hw.2
    have := hv.1
    omega
  exact List.Pairwise.forall_of_forall_of_flip (R := fun w v => w.spans lo hi → v.spans lo hi → w = v)
    (fun _ _ _ _ => rfl) (hpairs.imp fun hlt hw hv => (happart hlt hw hv).elim)
    (hpairs.imp fun hlt hv hw => (happart hlt hw hv).elim) hw hv hws hvs

/-- The window that the range step finds is the one that holds the range. -/
theorem Entry.windowOf_eq_some {x : Entry} (hx : x.valid = true) {lo hi : Nat} (hlo : lo ≤ hi) {w : Window} :
    x.windowOf (lo, hi) = some w ↔ w ∈ x.windows ∧ w.spans lo hi := by
  have hfound {v : Window} (hv : x.windowOf (lo, hi) = some v) : v ∈ x.windows ∧ v.spans lo hi := by
    have hends := List.find?_some hv
    simp only [Bool.and_eq_true, decide_eq_true_eq] at hends
    exact ⟨List.mem_of_find?_eq_some hv, hends.1.1, hends.2.2⟩
  refine ⟨hfound, fun ⟨hw, hfirst, hlast⟩ => ?_⟩
  cases hv : x.windowOf (lo, hi) with
  | none =>
    have hno := List.find?_eq_none.mp hv w hw
    simp only [Bool.and_eq_true, decide_eq_true_eq] at hno
    omega
  | some v =>
    obtain ⟨hvw, hspans⟩ := hfound hv
    rw [Entry.eq_of_spans hx hlo hw hvw ⟨hfirst, hlast⟩ hspans]

/-- The one window of a valid entry of type BYTE holds index 0 alone (R4, R8). -/
theorem Entry.spans_byte {x : Entry} (hx : x.valid = true) (ht : x.type = .byte) {w : Window} (hw : w ∈ x.windows) :
    w.spans 0 0 := by
  simp only [Entry.valid, windowsValid, Bool.and_eq_true, List.all_eq_true, decide_eq_true_eq, ht, lastIndex] at hx
  obtain ⟨-, ⟨⟨-, hall⟩, -⟩, -⟩ := hx
  have := hall w hw
  exact ⟨by omega, by omega⟩

/-! ### The check (R10, R12) -/

/-- The access check against an entry, step by step. -/
theorem State.accessCheck_entry {s : State} {p : Port} {r : Request} {e : EntryNo} {x : Entry}
    (he : r.entry.toNat = e.val) (hx : s.entry e = some x) (hk : r.kind ≠ .fence) :
    s.accessCheck p r =
      if admits x.type r.kind = false then some .badKind
      else if hasRange r.kind = true ∧ x.windowOf (requestRange x.type r) = none then some .badRange
      else if hasRight x p (s.port p).level r = false then some .denied
      else none := by
  have hentry : s.requestEntry r = some x := by
    rw [State.requestEntry, entryOfByte_eq_some.mpr he]
    exact hx
  simp [State.accessCheck, hk, hentry]

/-- The effective index as a number (R4). -/
theorem toNat_effectiveIndex (i : BitVec 16) :
    (effectiveIndex .byte i).toNat = 0 ∧ (effectiveIndex .indexed8 i).toNat = i.toNat % 256
      ∧ (effectiveIndex .indexed16 i).toNat = i.toNat := by
  refine ⟨rfl, ?_, rfl⟩
  rw [effectiveIndex, BitVec.toNat_and]
  exact Nat.and_two_pow_sub_one_eq_mod i.toNat 8

/-- The range of a READ, WRITE or POLL (R11). -/
theorem requestRange_ranged {t : EntryType} {r : Request} (h : hasRange r.kind = true) :
    requestRange t r = ((effectiveIndex t r.index).toNat, if r.kind = .poll then (effectiveIndex t r.index).toNat
      else (effectiveIndex t r.index).toNat + r.length.toNat - 1) := by
  unfold requestRange
  cases hk : r.kind with
  | read | write | poll => simp
  | send | recv | probe | lock | unlock | brk | fence => simp [hk, hasRange] at h

/-- A right in the window that holds the range. -/
theorem Entry.any_windowOf {x : Entry} (hx : x.valid = true) {lo hi : Nat} (hlo : lo ≤ hi) (P : Window → Bool) :
    (x.windowOf (lo, hi)).any P = true ↔ ∃ w ∈ x.windows, w.spans lo hi ∧ P w = true := by
  simp only [Option.any_eq_true, Entry.windowOf_eq_some hx hlo, and_assoc]

/-- A right in the one window of an entry of type BYTE. -/
theorem Entry.any_windowOf_byte {x : Entry} (hx : x.valid = true) (ht : x.type = .byte) (P : Window → Bool) :
    (x.windowOf (0, 0)).any P = true ↔ ∃ w ∈ x.windows, P w = true := by
  rw [Entry.any_windowOf hx (le_refl 0)]
  exact exists_congr fun w => and_congr_right fun hw => and_iff_right (Entry.spans_byte hx ht hw)

/-- Settles O16: each step of the check in the statement's words, and the check as the chain of its steps. -/
theorem accessGrantedExactly : Obligations.AccessGrantedExactly := by
  intro s p r
  refine ⟨fun hk => by simp [State.accessCheck, hk], fun hk hn => ?noEntry, ?entry⟩
  case noEntry =>
    have hnone : s.requestEntry r = none := bind_entry_eq_none hn
    simp [State.accessCheck, hk, hnone]
  case entry =>
    intro e x lo hi suits ranged right holds he hx hvalid hk hlen hsuits hranged hlo hhi hholds hright
    have hindex : lo = (effectiveIndex x.type r.index).toNat := by
      obtain ⟨hbyte, hlow, hwide⟩ := toNat_effectiveIndex r.index
      rw [hlo]
      cases x.type with
      | byte => exact hbyte.symm
      | indexed8 => exact hlow.symm
      | indexed16 => exact hwide.symm
    have hadmits : suits ↔ admits x.type r.kind = true := by
      rw [hsuits]
      cases r.kind <;> simp [admits]
    have hhasRange : ranged ↔ hasRange r.kind = true := by
      rw [hranged]
      cases r.kind <;> simp [hasRange]
    have hspans (w : Window) : holds w ↔ w.spans lo hi := hholds w
    have hrange (h : hasRange r.kind = true) : requestRange x.type r = (lo, hi) ∧ lo ≤ hi := by
      refine ⟨by rw [requestRange_ranged h, ← hindex, hhi], ?_⟩
      rw [hhi]
      split
      · exact le_refl lo
      next hpoll =>
        have := hlen (by revert h hpoll; cases r.kind <;> simp [hasRange])
        omega
    have hwindow (h : hasRange r.kind = true) :
        x.windowOf (requestRange x.type r) = none ↔ ∀ w ∈ x.windows, ¬ holds w := by
      obtain ⟨heq, hle⟩ := hrange h
      simp only [heq, Option.eq_none_iff_forall_ne_some, ne_eq, Entry.windowOf_eq_some hvalid hle, hspans, not_and]
    have hhasRight (h : suits) : right ↔ hasRight x p (s.port p).level r = true := by
      rw [hright]
      rw [hadmits] at h
      have hranged (h : hasRange r.kind = true) := hrange h
      unfold hasRight
      cases hkind : r.kind with
      | read | poll | write =>
        obtain ⟨heq, hle⟩ := hranged (by rw [hkind]; rfl)
        simp only [heq, Entry.any_windowOf hvalid hle, hspans]
      | recv | send =>
        have htype : x.type = .byte := by simpa [hkind, admits] using h
        have heq : requestRange x.type r = (0, 0) := by simp [requestRange, hkind]
        simp only [heq, Entry.any_windowOf_byte hvalid htype]
      | probe => simp only [Entry.readable_iff]
      | lock | brk => simp [Entry.writable]
      | unlock | fence => simp
    rw [State.accessCheck_entry he hx hk]
    refine ⟨fun hs => ?badKind, fun hs hr hno => ?badRange, fun hs hheld hno => ?denied, fun hs hheld hyes => ?none⟩
    case badKind => rw [hadmits, Bool.not_eq_true] at hs; rw [if_pos hs]
    case badRange =>
      have hr' := hhasRange.mp hr
      rw [if_neg (by simp [hadmits.mp hs]), if_pos ⟨hr', (hwindow hr').mpr hno⟩]
    case denied =>
      rw [if_neg (by simp [hadmits.mp hs]), if_neg (fun h => ?_), if_pos (by simpa [hhasRight hs] using hno)]
      obtain ⟨w, hw, hholds⟩ := hheld (hhasRange.mpr h.1)
      exact (hwindow h.1).mp h.2 w hw hholds
    case none =>
      rw [if_neg (by simp [hadmits.mp hs]), if_neg (fun h => ?_), if_neg (by simpa [hhasRight hs] using hyes)]
      obtain ⟨w, hw, hholds⟩ := hheld (hhasRange.mpr h.1)
      exact (hwindow h.1).mp h.2 w hw hholds

end Sys2Proof.Machine

/-! SUPPORT. SUBMIT and CANCEL: the tags of a port, the head that is judged again, and the statements about both. -/

namespace Sys2Proof.Machine

section
variable {s : State} {p : Port}

/-! ### A port that is written, and its head judged (R58) -/

/-- The closed frame's state, with the port changed, as a write of the port. -/
theorem State.modPort_closeFrame_eq (s : State) (p : Port) (g : PortUnit → PortUnit) :
    (s.closeFrame p).modPort p g = s.setPort p (g ((s.closeFrame p).port p)) := by
  rw [State.modPort, State.closeFrame_eq, State.setPort_setPort]

/-- The same with a result stored. -/
theorem State.modPort_closeFrame (s : State) (p : Port) (g : PortUnit → PortUnit) (r : ResultCode) :
    ((s.closeFrame p).modPort p g).setResult p r = s.setPort p
      { g ((s.closeFrame p).port p) with lastResult := r } := by
  simp [State.closeFrame, State.setResult, State.modPort]

/-- A head judged after its port is written: the rest of what was written stands. -/
theorem State.judgeHead_setPort (s : State) (p : Port) (u : PortUnit) : ∃ d m,
    (s.setPort p u).judgeHead p = s.setPort p { u with deferral := d, lockedMark := m }
      ∧ s.headJudged p u.requests.head? u.deferral u.lockedMark d m := by
  have hport : (s.setPort p u).port p = u := by simp
  have hjudged := (s.setPort p u).headJudged_judgedPort p
  rw [hport] at hjudged
  refine ⟨_, _, ?_, hjudged⟩
  rw [State.judgeHead, State.modPort, hport, State.setPort_setPort, ← State.judgedPort_eq]

/-! ### The tags of a port (R29, R48) -/

/-- A tag is outstanding exactly when a queued request, the transaction on the bus unless it is to be discarded, or a
parked poll carries it. -/
theorem State.tagOutstanding_iff {tag : Byte} : s.tagOutstanding p tag = true ↔
    (∃ x ∈ (s.port p).requests, x.tag = tag)
      ∨ (∃ c, s.scheduler.current = some c ∧ c.port = p ∧ c.discard = false ∧ c.tag = tag)
      ∨ ∃ k q, s.poll k = some q ∧ q.port = p ∧ q.tag = tag := by
  simp only [State.tagOutstanding, Bool.or_eq_true, List.any_eq_true, Option.any_eq_true, Bool.and_eq_true,
    decide_eq_true_eq, Bool.not_eq_true', List.mem_finRange, true_and, or_assoc, and_assoc, and_comm (a := _ = tag)]

/-- Closing a frame leaves the tags of the port. -/
theorem State.tagOutstanding_closeFrame (tag : Byte) :
    (s.closeFrame p).tagOutstanding p tag = s.tagOutstanding p tag := by
  rw [Bool.eq_iff_iff, State.tagOutstanding_iff, State.tagOutstanding_iff]
  simp [State.closeFrame]

/-- The access check does not see a frame. -/
theorem State.accessCheck_closeFrame (r : Request) : (s.closeFrame p).accessCheck p r = s.accessCheck p r := by
  have hlevel : ((s.closeFrame p).port p).level = (s.port p).level := by simp
  unfold State.accessCheck
  rw [hlevel]
  rfl

/-! ### SUBMIT (R25 to R30) -/

/-- SUBMIT in RUN, check by check. -/
theorem submitRule_run {f : FrameEnd} (hp : s.phase ≠ .config) {r : Request} (hr : decodeRequest f.args = some r) :
    submitRule p f s =
      if 8 ≤ (s.port p).requests.length then s.setResult p .queueFull
      else if s.tagOutstanding p r.tag then s.setResult p .dupTag
      else (s.accessCheck p r).elim
        (((s.modPort p fun u => { u with requests := u.requests ++ [r] }).setResult p .done).judgeHead p)
        (s.setResult p) := by
  simp only [submitRule, if_neg hp, State.submit, hr]
  cases s.accessCheck p r <;> rfl

/-! ### CANCEL (R34, R35, R99) -/

/-- A tag taken out of a queue: the timer and mark of a cancelled head go with it (R35). -/
theorem PortUnit.removeTag_eraseP (u : PortUnit) (tag : Byte) : u.removeTag tag = { u with
    requests := u.requests.eraseP fun x => x.tag = tag
    deferral := if u.requests.head?.any fun x => x.tag = tag then none else u.deferral
    lockedMark := if u.requests.head?.any fun x => x.tag = tag then false else u.lockedMark } := by
  unfold PortUnit.removeTag
  split
  next h =>
    obtain ⟨x, hx, ht⟩ := (Option.any_eq_true _ _).mp h
    obtain ⟨rest, hq⟩ := List.head?_eq_some_iff.mp hx
    simp [PortUnit.dropHead, hq, of_decide_eq_true ht]
  · rfl

/-- The only slot with a port's poll of a tag is the one found. -/
theorem State.pollTagged_eq_some {tag : Byte} {k : SlotNo} {q : Poll} (hq : s.poll k = some q) (hp : q.port = p)
    (ht : q.tag = tag) (honly : ∀ k' q', s.poll k' = some q' → q'.port = p → q'.tag = tag → k' = k) :
    s.pollTagged p tag = some k := by
  cases hf : s.pollTagged p tag with
  | none =>
    have := List.find?_eq_none.mp hf k (List.mem_finRange k)
    simp [hq, hp, ht] at this
  | some k' =>
    have hfound := List.find?_some hf
    simp only [Option.any_eq_true, Bool.and_eq_true, decide_eq_true_eq] at hfound
    obtain ⟨q', hq', hp', ht'⟩ := hfound
    rw [honly k' q' hq' hp' ht']

theorem State.pollTagged_eq_none {tag : Byte} (h : ∀ k q, s.poll k = some q → q.port = p → q.tag ≠ tag) :
    s.pollTagged p tag = none := by
  refine List.find?_eq_none.mpr fun k _ hany => ?_
  obtain ⟨q, hq, htag⟩ := (Option.any_eq_true _ _).mp hany
  simp only [Bool.and_eq_true, decide_eq_true_eq] at htag
  exact h k q hq htag.1 htag.2

/-- A single record joins its port's queue as it is (R39). -/
theorem State.append_single (s : State) (p : Port) (rec : Completion) :
    s.append [(p, rec)] = s.setPort p { s.port p with
    completions := (s.port p).completions ++ [rec], credits := (s.port p).credits - 1 } := by
  have hfree : (s.append [(p, rec)]).freeCount = s.freeCount := by simp [State.append]
  refine State.eq_of_parts (by simp [State.append]) (by simp [State.append]) (by simp [State.append])
    (by simp [State.append]) (by simp [State.append]) (fun q => ?_) (fun e => by rw [State.append_eq]; rfl)
    (by simp [State.append]) (by simp [State.append]) (fun k => by rw [State.append_eq]; rfl) (by simp [State.append])
    hfree
  rw [State.port_append, State.port_setPort]
  split
  next h => simp [h, recordsFor, arrange]
  next h => simp [recordsFor, arrange, Ne.symm h]

/-- Ports and slots are apart. -/
theorem State.setPort_setPoll (s : State) (p : Port) (u : PortUnit) (k : SlotNo) (q : Option Poll) :
    (s.setPoll k q).setPort p u = (s.setPort p u).setPoll k q := rfl

/-- A CANCEL marks a RUNNING slot (R99). -/
theorem State.cancelPoll_running {k : SlotNo} {q : Poll} (hq : s.poll k = some q) (h : q.state = .running) :
    s.cancelPoll k = s.setPoll k (some { q with cancelPending := true }) := by
  simp only [State.cancelPoll, hq, if_pos h]

/-- A CANCEL ends any other poll (R99). -/
theorem State.cancelPoll_parked {k : SlotNo} {q : Poll} (hq : s.poll k = some q) (h : q.state ≠ .running) :
    s.cancelPoll k = (s.setPoll k none).append [(q.port, recordOfPoll q .aborted)] := by
  simp only [State.cancelPoll, hq, if_neg h]
  rfl

section
variable {f : FrameEnd} (hp : s.phase ≠ .config)
include hp

/-- CANCEL of a queued request. -/
theorem cancelRule_queued (h : ∃ x ∈ (s.port p).requests, x.tag = f.arg 0) :
    cancelRule p f s = ((s.modPort p fun u => u.removeTag (f.arg 0)).judgeHead p).setResult p .done := by
  have hany : ((s.port p).requests.any fun r => r.tag = f.arg 0) = true := by simpa using h
  simp only [cancelRule, if_neg hp, hany, if_true]

/-- CANCEL of what is not queued: a parked poll is cancelled, and otherwise the bus is looked at. -/
theorem cancelRule_other (h : ∀ x ∈ (s.port p).requests, x.tag ≠ f.arg 0) :
    cancelRule p f s = (s.pollTagged p (f.arg 0)).elim
      (if s.scheduler.current.any fun c => c.slot = none && c.port = p && c.tag = f.arg 0 && !c.discard then
        s.setResult p .inFlight else s.setResult p .notFound)
      (fun k => (s.cancelPoll k).setResult p .done) := by
  have hany : ((s.port p).requests.any fun r => r.tag = f.arg 0) = false := by simpa using h
  simp only [cancelRule, if_neg hp, hany, Bool.false_eq_true, if_false]
  cases s.pollTagged p (f.arg 0) <;> rfl

end

end

/-! ### The statements -/

/-- Settles O14: the checks of SUBMIT's rule in order; a request that passes them joins the queue, and its head is
judged. -/
theorem submitRunsSixChecks : Obligations.SubmitRunsSixChecks := by
  intro s p bits f args taken h hrun htaken
  have hp : (s.closeFrame p).phase ≠ .config := by simp [hrun]
  have hqueue : ((s.closeFrame p).port p).requests = (s.port p).requests := by simp
  refine ⟨fun hnone => exec_judged_result h ?malformed, fun r hr => ?_⟩
  case malformed =>
    have hargs : decodeRequest (f.ending (s.port p) args).args = none := hnone
    simp [Command.rule, submitRule, State.submit, hargs, hrun]
  have hrule := submitRule_run (p := p) (f := f.ending (s.port p) args) hp hr
  rw [hqueue, State.tagOutstanding_closeFrame, State.accessCheck_closeFrame] at hrule
  have htag : s.tagOutstanding p r.tag = true ↔ taken r.tag := State.tagOutstanding_iff.trans (htaken r.tag).symm
  refine ⟨fun hfull => exec_judged_result h (hrule.trans (if_pos hfull)), fun hroom ht => ?_,
    fun hroom ht code hcode => ?_,
    fun hroom ht hpass => ?_⟩
  all_goals rw [if_neg (Nat.not_le.mpr hroom)] at hrule
  · exact exec_judged_result h (hrule.trans (if_pos (htag.mpr ht)))
  all_goals rw [if_neg (mt htag.mp ht)] at hrule
  · rw [hcode] at hrule
    exact exec_judged_result h hrule
  · rw [hpass] at hrule
    obtain ⟨d, m, heq, hjudged⟩ := s.judgeHead_setPort p
      { (s.port p).afterFrame .done with requests := (s.port p).requests ++ [r] }
    refine ⟨d, m, (exec_judged h).trans (congrArg _ (hrule.trans (Eq.trans ?_ heq))), hjudged⟩
    rw [Option.elim_none, State.modPort_closeFrame, State.port_closeFrame, if_pos rfl]
    rfl

/-- Settles O18: the places in which CANCEL's rule looks for the tag, and what it makes of what it finds. -/
theorem cancelByPlace : Obligations.CancelByPlace := by
  intro s p bits f tag more h hrun
  have hp : (s.closeFrame p).phase ≠ .config := by simp [hrun]
  have hqueue : ((s.closeFrame p).port p).requests = (s.port p).requests := by simp
  refine ⟨fun hqueued => ?queued, fun hnot => ?other⟩
  case queued =>
    have hrule := cancelRule_queued (p := p) (f := f.ending (s.port p) (tag :: more)) hp (by rw [hqueue]; exact hqueued)
    obtain ⟨d, m, heq, hjudged⟩ := s.judgeHead_setPort p (((s.closeFrame p).port p).removeTag tag)
    refine ⟨d, m, (exec_judged h).trans (congrArg _ (hrule.trans ?_)), fun x rest hq => ?_⟩
    · rw [State.modPort_closeFrame_eq]
      refine (congrArg (State.setResult · p .done) heq).trans ?_
      simp [State.setResult, State.modPort, PortUnit.removeTag_eraseP, PortUnit.afterFrame]
    · rw [PortUnit.removeTag_eraseP] at hjudged
      simp only [hqueue, hq] at hjudged
      refine ⟨fun hne => ?_, fun heq => ?_⟩
      · simpa [hne] using hjudged
      · simpa [heq] using hjudged
  case other =>
    have hrule := cancelRule_other (p := p) (f := f.ending (s.port p) (tag :: more)) hp (by rw [hqueue]; exact hnot)
    refine ⟨fun k q hq hqp ht honly => ?poll, fun hnone => ?bus⟩
    case poll =>
      have hfound : (s.closeFrame p).pollTagged p tag = some k := State.pollTagged_eq_some hq hqp ht honly
      replace hrule := hrule.trans (congrArg (Option.elim · _ _) hfound)
      have hq' : (s.closeFrame p).poll k = some q := hq
      refine ⟨fun hr => (exec_judged h).trans (congrArg _ (hrule.trans ?_)),
        fun hr => (exec_judged h).trans (congrArg _ (hrule.trans ?_))⟩
      · simp only [Option.elim_some, State.cancelPoll_running hq' hr, ← State.setResult_closeFrame]
        rfl
      · simp only [Option.elim_some, State.cancelPoll_parked hq' hr, hqp, State.append_single]
        subst ht
        simp [State.closeFrame, State.setResult, State.modPort, PortUnit.afterFrame, recordOfPoll,
          State.setPort_setPoll]
    case bus =>
      have hfound : (s.closeFrame p).pollTagged p tag = none := State.pollTagged_eq_none hnone
      replace hrule := hrule.trans (congrArg (Option.elim · _ _) hfound)
      refine ⟨fun c hc hslot hport ht hkept => ?_, fun hall => ?_⟩
      · exact exec_judged_result h (hrule.trans (if_pos (by simp [State.closeFrame, FrameEnd.arg, Frame.ending, *])))
      · refine exec_judged_result h (hrule.trans (if_neg ?_))
        rw [Bool.not_eq_true, Option.any_eq_false]
        simpa [State.closeFrame, FrameEnd.arg, Frame.ending] using hall

end Sys2Proof.Machine

/-! SUPPORT. DIR_WRITE: the record of an entry read back, the checks of R19 in order, and the statement about them. -/

namespace Sys2Proof.Machine

/-! ### The record of an entry, read back (section 10.5) -/

/-- The record that presents entry `x` as number `n`. -/
def Entry.record (x : Entry) (n : Byte) : RawRecord :=
  { number := n, address := x.address.setWidth 8, type := typeCode x.type, lockLevel := byteOf x.lockLevel.val,
    windows := x.windows }

/-- A 16-bit number is read back from its two bytes. -/
theorem wordOf_bytes (w : BitVec 16) : wordOf (w.extractLsb' 8 8) (w.setWidth 8) = w := by
  obtain ⟨hhi, hlo⟩ := bytes_of_word w
  apply BitVec.eq_of_toNat_eq
  have := w.isLt
  simp only [hhi, hlo, toNat_wordOf, BitVec.toNat_ofNat]
  omega

/-- The two sets of a window are read back from its last byte. -/
theorem portSets_of_byte (hi lo : PortSet) :
    (hi ++ lo : Byte).extractLsb' 0 4 = lo ∧ (hi ++ lo : Byte).extractLsb' 4 4 = hi := by
  revert hi lo
  decide

/-- Windows are read back from their bytes. -/
theorem parseWindows_bytes (ws : List Window) (rest : List Byte) :
    parseWindows ws.length (ws.flatMap Window.bytes ++ rest) = ws := by
  induction ws with
  | nil => cases rest <;> rfl
  | cons w ws ih =>
    obtain ⟨hread, hwrite⟩ := portSets_of_byte w.writeSet w.readSet
    simp only [List.flatMap_cons, Window.bytes, List.cons_append, List.nil_append, List.length_cons, parseWindows,
      wordOf_bytes, hread, hwrite, ih]

/-- An entry's record is read back from its bytes. -/
theorem parseRecord_recordBytes {x : Entry} (hx : x.windows.length ≤ 4) (n : Byte) (extra : List Byte) :
    parseRecord (x.recordBytes n ++ extra) = some (x.record n) := by
  have hcount : (byteOf x.windows.length).toNat = x.windows.length := by
    rw [byteOf, BitVec.toNat_ofNat]
    omega
  simp only [Entry.recordBytes, List.cons_append, List.nil_append, parseRecord, hcount,
    parseWindows_bytes]
  rfl

theorem length_recordBytes (x : Entry) (n : Byte) : (x.recordBytes n).length = 6 + 5 * x.windows.length := by
  have hwindows : (x.windows.flatMap Window.bytes).length = 5 * x.windows.length := by
    induction x.windows with
    | nil => rfl
    | cons w ws ih =>
      rw [List.flatMap_cons, List.length_append, ih, List.length_cons, Window.bytes]
      simp only [List.length_cons, List.length_nil]
      omega
  simp only [Entry.recordBytes, List.length_append, hwindows, List.length_cons, List.length_nil]

theorem typeOfByte_typeCode (t : EntryType) : typeOfByte (typeCode t) = some t := by
  cases t <;> rfl

/-- A valid entry has from 1 to 4 windows (R8). -/
theorem Entry.windows_of_valid {x : Entry} (hx : x.valid = true) : 1 ≤ x.windows.length ∧ x.windows.length ≤ 4 := by
  simp only [Entry.valid, Bool.and_eq_true, windowsValid_iff] at hx
  obtain ⟨-, hmin, hmax, -⟩ := hx
  exact ⟨hmin, hmax⟩

theorem toNat_address_record (x : Entry) (n : Byte) : (x.record n).address.toNat = x.address.toNat := by
  have := x.address.isLt
  rw [Entry.record, BitVec.toNat_setWidth]
  omega

theorem toNat_lockLevel_record (x : Entry) (n : Byte) : (x.record n).lockLevel.toNat = x.lockLevel.val := by
  have := x.lockLevel.isLt
  rw [Entry.record, byteOf, BitVec.toNat_ofNat]
  omega

/-- The record of a valid entry is valid. -/
theorem Entry.valid_record {x : Entry} (hx : x.valid = true) (n : Byte) : (x.record n).valid = true := by
  simp only [Entry.valid, Bool.and_eq_true, decide_eq_true_eq] at hx
  obtain ⟨⟨hmin, hmax⟩, hwindows⟩ := hx
  have hlevel := x.lockLevel.isLt
  have htype : typeOfByte (x.record n).type = some x.type := typeOfByte_typeCode x.type
  simp only [RawRecord.valid, htype, toNat_address_record, toNat_lockLevel_record, Bool.and_eq_true, decide_eq_true_eq]
  exact ⟨⟨⟨hmin, hmax⟩, by omega⟩, hwindows⟩

/-- It fills its slot with the entry's static fields, and with nothing else of the entry (R14, R17). -/
theorem Entry.toEntry_record (x : Entry) (n : Byte) : (x.record n).toEntry = { x with
    nackCount := 0, owner := none, leaseValue := 0, leaseRemaining := 0, releaseReason := .initial,
    watchSet := 0 } := by
  have haddress : (x.record n).address.setWidth 7 = x.address := by
    apply BitVec.eq_of_toNat_eq
    have := x.address.isLt
    rw [BitVec.toNat_setWidth, toNat_address_record]
    omega
  have htype : (typeOfByte (x.record n).type).getD .byte = x.type := by
    rw [show (x.record n).type = typeCode x.type from rfl, typeOfByte_typeCode, Option.getD_some]
  have hlevel : Fin.ofNat 4 (x.record n).lockLevel.toNat = x.lockLevel := by
    rw [toNat_lockLevel_record]
    exact Fin.ofNat_val_eq_self x.lockLevel
  simp only [RawRecord.toEntry, haddress, htype, hlevel]
  rfl

/-! ### A record that fails a condition of R8 -/

section
variable {args : List Byte} {n k : Nat}

theorem windows_stagedRecord (hk : k < n) :
    (stagedRecord args 0 n).windows[k]? = some (stagedWindow args (6 + 5 * k)) := by
  simp [stagedRecord, hk]

/-- The indexes of a staged window as numbers. -/
theorem toNat_stagedWindow (args : List Byte) (k : Nat) :
    (stagedWindow args (6 + 5 * k)).first.toNat = 256 * (args.getD (6 + 5 * k) 0).toNat +
      (args.getD (7 + 5 * k) 0).toNat
      ∧ (stagedWindow args (6 + 5 * k)).last.toNat
          = 256 * (args.getD (8 + 5 * k) 0).toNat + (args.getD (9 + 5 * k) 0).toNat := by
  have next (j : Nat) : 6 + 5 * k + j = 6 + j + 5 * k := by omega
  simp only [stagedWindow, toNat_wordOf, next]
  exact ⟨trivial, trivial⟩

/-- A window of a staged record that fails a condition of R8. -/
theorem stagedRecord_badWindow {first last : Nat → Nat}
    (hfirst : ∀ k, first k = 256 * (args.getD (6 + 5 * k) 0).toNat + (args.getD (7 + 5 * k) 0).toNat)
    (hlast : ∀ k, last k = 256 * (args.getD (8 + 5 * k) 0).toNat + (args.getD (9 + 5 * k) 0).toNat) (hk : k < n)
    (hbad : last k < first k ∨ (args.getD 3 0 = 0x00 ∧ last k ≠ 0) ∨ (args.getD 3 0 = 0x01 ∧ 255 < last k)
      ∨ (k + 1 < n ∧ first (k + 1) ≤ last k)) : ¬ (stagedRecord args 0 n).meetsR8 := by
  rintro ⟨-, -, -, -, -, -, -, hwindows, hascend⟩
  obtain ⟨hf, hl⟩ := toNat_stagedWindow args k
  have hget := windows_stagedRecord (args := args) hk
  obtain ⟨hrange, hbyte, hindexed8⟩ := hwindows _ (List.mem_of_getElem? hget)
  rw [← hfirst] at hf
  rw [← hlast] at hl
  rw [hf, hl] at hrange
  rw [hl] at hbyte hindexed8
  obtain h | ⟨ht, h⟩ | ⟨ht, h⟩ | ⟨hk', h⟩ := hbad
  · omega
  · exact h (hbyte ht)
  · have := hindexed8 ht
    omega
  · obtain ⟨hf', -⟩ := toNat_stagedWindow args (k + 1)
    have := hascend k _ _ hget (windows_stagedRecord hk')
    rw [hl, hf', ← hfirst] at this
    omega

/-- A staged record that fails a condition of R8. -/
theorem stagedRecord_bad {first last : Nat → Nat}
    (hfirst : ∀ k, first k = 256 * (args.getD (6 + 5 * k) 0).toNat + (args.getD (7 + 5 * k) 0).toNat)
    (hlast : ∀ k, last k = 256 * (args.getD (8 + 5 * k) 0).toNat + (args.getD (9 + 5 * k) 0).toNat)
    (hbad : (args.getD 2 0).toNat < 0x08 ∨ 0x77 < (args.getD 2 0).toNat ∨ 2 < (args.getD 3 0).toNat
      ∨ 3 < (args.getD 4 0).toNat ∨ (args.getD 3 0 = 0x00 ∧ n ≠ 1)
      ∨ ∃ k < n, last k < first k ∨ (args.getD 3 0 = 0x00 ∧ last k ≠ 0) ∨ (args.getD 3 0 = 0x01 ∧ 255 < last k)
          ∨ (k + 1 < n ∧ first (k + 1) ≤ last k)) : ¬ (stagedRecord args 0 n).meetsR8 := by
  obtain h | h | h | h | ⟨ht, h⟩ | ⟨k, hk, hbad⟩ := hbad
  · rintro ⟨hlow, -⟩
    exact Nat.not_le.mpr h hlow
  · rintro ⟨-, hhigh, -⟩
    exact Nat.not_le.mpr h hhigh
  · rintro ⟨-, -, htype, -⟩
    exact Nat.not_le.mpr h htype
  · rintro ⟨-, -, -, hlevel, -⟩
    exact Nat.not_le.mpr h hlevel
  · rintro ⟨-, -, -, -, -, -, hone, -⟩
    have := hone ht
    simp only [stagedRecord, List.length_map, List.length_range] at this
    exact h this
  · exact stagedRecord_badWindow hfirst hlast hk hbad

end

/-! ### The checks of R19, in order -/

section
variable {s : State} {p : Port} {f : FrameEnd} (hp : s.phase ≠ .run) (hl : (s.port p).level = 0)
include hp hl

theorem dirWriteRule_noCount (h : f.args.length < 6) : dirWriteRule p f s = s.setResult p .shortFrame := by
  simp [dirWriteRule, hp, hl, h]

theorem dirWriteRule_badCount (h : 6 ≤ f.args.length) (hn : (f.arg 5).toNat = 0 ∨ 4 < (f.arg 5).toNat) :
    dirWriteRule p f s = s.setResult p .malformed := by
  simp [dirWriteRule, hp, hl, Nat.not_lt.mpr h, hn]

variable (h : 6 ≤ f.args.length) (hmin : 1 ≤ (f.arg 5).toNat) (hmax : (f.arg 5).toNat ≤ 4)
include h hmin hmax

theorem dirWriteRule_short (hshort : f.args.length < 6 + 5 * (f.arg 5).toNat) :
    dirWriteRule p f s = s.setResult p .shortFrame := by
  have hn : ¬ ((f.arg 5).toNat = 0 ∨ 4 < (f.arg 5).toNat) := by omega
  simp only [dirWriteRule, if_neg hp, hl, ne_eq, not_true_eq_false, if_false, if_neg (Nat.not_lt.mpr h), if_neg hn,
    if_pos hshort]

variable (hlen : 6 + 5 * (f.arg 5).toNat ≤ f.args.length)
include hlen

/-- A frame that holds a whole record, by its marker and number and by the record. -/
theorem dirWriteRule_whole : dirWriteRule p f s = if f.arg 0 ≠ 0xE0 then s.setResult p .malformed else
    (entryOfByte (f.arg 1)).elim (s.setResult p .malformed) fun e =>
      (parseRecord f.args).elim (s.setResult p .malformed) fun r =>
        if r.valid = false then s.setResult p .malformed
        else if s.addressTaken e r.toEntry.address then s.setResult p .dirConflict
        else (s.setEntry e (some r.toEntry)).setResult p .done := by
  have hn : ¬ ((f.arg 5).toNat = 0 ∨ 4 < (f.arg 5).toNat) := by omega
  simp only [dirWriteRule, if_neg hp, hl, ne_eq, not_true_eq_false, if_false, if_neg (Nat.not_lt.mpr h), if_neg hn,
    if_neg (Nat.not_lt.mpr hlen)]
  cases entryOfByte (f.arg 1) <;> cases parseRecord f.args <;> rfl

/-- A bad marker, a number that names no slot, or a record that is not valid. -/
theorem dirWriteRule_malformed (hbad : f.arg 0 ≠ 0xE0 ∨ 32 ≤ (f.arg 1).toNat
      ∨ ∀ r, parseRecord f.args = some r → r.valid = false) : dirWriteRule p f s = s.setResult p .malformed := by
  rw [dirWriteRule_whole hp hl h hmin hmax hlen]
  split
  · rfl
  next hmarker =>
    obtain hbad | hnumber | hrecord := hbad
    · exact absurd hbad hmarker
    · rw [entryOfByte_eq_none.mpr hnumber]
      rfl
    · cases entryOfByte (f.arg 1) with
      | none => rfl
      | some e =>
        cases hr : parseRecord f.args with
        | none => rfl
        | some r => exact if_pos (hrecord r hr)

/-- A valid record of a slot, by whether its address is taken. -/
theorem dirWriteRule_valid (hmarker : f.arg 0 = 0xE0) {e : EntryNo} (he : (f.arg 1).toNat = e.val) {r : RawRecord}
    (hr : parseRecord f.args = some r) (hv : r.valid = true) : dirWriteRule p f s =
      if s.addressTaken e r.toEntry.address then s.setResult p .dirConflict
      else (s.setEntry e (some r.toEntry)).setResult p .done := by
  simp only [dirWriteRule_whole hp hl h hmin hmax hlen, hmarker, ne_eq, not_true_eq_false, if_false,
    entryOfByte_eq_some.mpr he, hr, Option.elim_some, hv, Bool.true_eq_false]

end

/-- Settles O25: the checks of DIR_WRITE's rule in order, a record that fails a condition of R8 and one read back from
the bytes of a valid entry. -/
theorem dirWriteFillsSlot : Obligations.DirWriteFillsSlot := by
  intro s p bits f args h hconfig hlevel
  have hp : (s.closeFrame p).phase ≠ .run := by simp [hconfig]
  have hl : ((s.closeFrame p).port p).level = 0 := by simpa using hlevel
  refine ⟨fun x e extra hx hargs => ?valid, fun hn => exec_judged_result h (dirWriteRule_noCount hp hl hn),
    fun h6 hn => exec_judged_result h (dirWriteRule_badCount hp hl h6 hn), fun h6 hmin hmax => ⟨fun hn => ?short,
    fun hlen hbad => ?marker, fun hlen first last hfirst hlast hbad => ?record⟩⟩
  case short => exact exec_judged_result h (dirWriteRule_short hp hl h6 hmin hmax hn)
  case marker =>
    exact exec_judged_result h (dirWriteRule_malformed hp hl h6 hmin hmax hlen (hbad.imp_right .inl))
  case record =>
    refine exec_judged_result h (dirWriteRule_malformed hp hl h6 hmin hmax hlen (.inr (.inr fun r hr => ?_)))
    have hcount : args[5]? = some (args.getD 5 0) := by
      rw [List.getD_eq_getElem args 0 (by omega)]
      exact List.getElem?_eq_getElem _
    have hstaged : parseRecord args = some (stagedRecord args 0 (args.getD 5 0).toNat) :=
      parseRecord_drop (pos := 0) hcount (by simpa using hlen)
    obtain rfl : stagedRecord args 0 (args.getD 5 0).toNat = r := Option.some.inj (hstaged.symm.trans hr)
    rw [← Bool.not_eq_true, RawRecord.valid_iff]
    exact stagedRecord_bad hfirst hlast hbad
  case valid =>
    obtain ⟨hmin, hmax⟩ := Entry.windows_of_valid hx
    have hcount : (byteOf x.windows.length).toNat = x.windows.length := by
      rw [byteOf, BitVec.toNat_ofNat]
      omega
    have hlen : args.length = 6 + 5 * x.windows.length + extra.length := by
      rw [hargs, List.length_append, length_recordBytes]
    have hbytes : args.getD 0 0 = 0xE0 ∧ args.getD 1 0 = BitVec.ofNat 8 e.val
        ∧ args.getD 5 0 = byteOf x.windows.length := by
      rw [hargs]
      exact ⟨rfl, rfl, rfl⟩
    obtain ⟨hmarker, hnumber, hwindows⟩ := hbytes
    have hrecord : parseRecord args = some (x.record (BitVec.ofNat 8 e.val)) := by
      rw [hargs]
      exact parseRecord_recordBytes hmax _ extra
    have he : (args.getD 1 0).toNat = e.val := by
      have := e.isLt
      rw [hnumber, BitVec.toNat_ofNat]
      omega
    rw [← hwindows] at hcount
    have hrule := dirWriteRule_valid (f := f.ending (s.port p) args) hp hl (by show 6 ≤ args.length; omega)
      (by show 1 ≤ (args.getD 5 0).toNat; omega) (by show (args.getD 5 0).toNat ≤ 4; omega)
      (by show 6 + 5 * (args.getD 5 0).toNat ≤ args.length; omega) hmarker he hrecord (Entry.valid_record hx _)
    rw [Entry.toEntry_record] at hrule
    refine ⟨fun hfree => ?_, fun htaken => exec_judged_result h (hrule.trans (if_pos ?_))⟩
    · have hfree' : (s.closeFrame p).addressTaken e x.address = false := State.addressTaken_eq_false.mpr hfree
      refine (exec_judged h).trans (congrArg _ ((hrule.trans (if_neg ?_)).trans (State.setEntry_closeFrame ..)))
      exact Bool.eq_false_iff.mp hfree'
    · by_contra hno
      obtain ⟨e', x', hx', ha, hne⟩ := htaken
      exact hne (State.addressTaken_eq_false.mp (Bool.eq_false_iff.mpr hno) e' x' hx' ha)

end Sys2Proof.Machine

/-! SUPPORT. LOCK_HEAD, UNLOCK_HEAD and BREAK_HEAD, by what the Lock logic finds, and the statements about them. -/

namespace Sys2Proof.Machine

section
variable {s : State} {p : Port} {r : Request} {rest : List Request} {e : EntryNo} {x : Entry}

/-! ### What the Lock logic finds (R50, R51) -/

/-- An entry that is free or its own does not hold a port's head back. -/
theorem State.not_lockedAgainst (hx : s.entry e = some x) (ho : x.owner = none ∨ x.owner = some p) :
    ¬ s.lockedAgainst e p := by
  rintro ⟨y, q, hy, hq, hne⟩
  rw [hx] at hy
  cases hy
  obtain ho | ho := ho
  · rw [ho] at hq
    cases hq
  · rw [ho] at hq
    cases hq
    exact hne rfl

/-- A LOCK head on an entry that is free or its own is taken by the Lock logic. -/
theorem State.readyLockKind_lock (h : s.headReady p r rest) (hk : r.kind = .lock) (he : entryOfByte r.entry = some e)
    (hx : s.entry e = some x) (ha : x.nackCount ≠ 3) (ho : x.owner = none ∨ x.owner = some p) :
    s.readyLockKind p .lock = some (r, e, x) := by
  refine State.readyLockKind_eq_some.mpr ⟨State.readyHead_eq_some.mpr ⟨⟨rest, h⟩, ?_⟩, he, hx, hk, ha⟩
  rintro ⟨-, e', he', hlocked⟩
  rw [he] at he'
  cases he'
  exact State.not_lockedAgainst hx ho hlocked

/-- An UNLOCK or BREAK head is taken whoever has the lock. -/
theorem State.readyLockKind_undeferred {k : Kind} (h : s.headReady p r rest) (hk : r.kind = k)
    (hd : defersOnLock k = false) (he : entryOfByte r.entry = some e) (hx : s.entry e = some x) (ha : x.nackCount ≠ 3) :
    s.readyLockKind p k = some (r, e, x) :=
  State.readyLockKind_eq_some.mpr ⟨State.readyHead_of_headReady h (by rw [hk]; exact hd), he, hx, hk, ha⟩

/-- Another port's lock holds a LOCK head back. -/
theorem State.heldBack_lock (hk : r.kind = .lock) (he : entryOfByte r.entry = some e) (hx : s.entry e = some x)
    {q : Port}
    (ho : x.owner = some q) (hne : q ≠ p) : s.heldBack p r :=
  ⟨by simp [hk], e, he, x, q, hx, ho, hne⟩

/-- A head that is held back is not taken. -/
theorem State.readyLockKind_held {k : Kind} (hq : (s.port p).requests = r :: rest) (h : s.heldBack p r) :
    s.readyLockKind p k = none := by
  cases hr : s.readyLockKind p k with
  | none => rfl
  | some y =>
    obtain ⟨r', e', x'⟩ := y
    obtain ⟨hhead, -⟩ := State.readyLockKind_eq_some.mp hr
    obtain ⟨⟨rest', -, -, hq', -⟩, hfree⟩ := State.readyHead_eq_some.mp hhead
    rw [hq] at hq'
    cases hq'
    exact absurd h hfree

/-! ### LOCK_HEAD (R58, R72) -/

theorem exec_lockHead_taken (h : s.readyLockKind p .lock = some (r, e, x)) (hq : (s.port p).requests = r :: rest) :
    exec (.lockHead p) s = .next (((s.setPort p ((s.port p).headTaken rest)).setEntry e
        (some { x with owner := some p, leaseValue := r.lease.toNat, leaseRemaining := r.lease.toNat * 4 })).settle
      [(p, plainRecord r .ok (some (if x.owner = some p then .alreadyOwned else previousOf x.releaseReason)))]) := by
  obtain ⟨-, -, hx, -⟩ := State.readyLockKind_eq_some.mp h
  have hx' : (s.setPort p ((s.port p).headTaken rest)).entry e = some x := hx
  simp only [exec, execLockHead, h, State.modPort_takeHead hq, State.modEntry_eq hx', Entry.lockTo]

/-- A LOCK head that is held back is judged. -/
theorem exec_lockHead_held (hq : (s.port p).requests = r :: rest) (hk : r.kind = .lock) (h : s.heldBack p r) :
    exec (.lockHead p) s = .next (s.setPort p (s.judgedPort p (s.port p))) := by
  have hlock : ((s.head p).any fun r => r.kind = .lock) = true := by simp [State.head, hq, hk]
  simp only [exec, execLockHead, State.readyLockKind_held hq h, hlock, if_true]
  rfl

/-! ### UNLOCK_HEAD (R73, R76) -/

theorem exec_unlockHead_eq (h : s.readyLockKind p .unlock = some (r, e, x)) (hq : (s.port p).requests = r :: rest) :
    exec (.unlockHead p) s = .next (if x.owner = some p then
        ((s.setPort p ((s.port p).headTaken rest)).release e .normal).1.settle
          ((p, plainRecord r .ok none) :: ((s.setPort p ((s.port p).headTaken rest)).release e .normal).2)
      else (s.setPort p ((s.port p).headTaken rest)).settle [(p, plainRecord r .notHeld none)]) := by
  simp only [exec, execUnlockHead, h, State.modPort_takeHead hq]

/-- Taking the owner's own head changes nothing for the heads that wait for its lock. -/
theorem State.waitsFor_headTaken (hx : s.entry e = some x) (ho : x.owner = some p) {q : Port} {rq : Request}
    {restq : List Request} {d : Nat} :
    (s.setPort p ((s.port p).headTaken rest)).waitsFor e q rq restq d ↔ s.waitsFor e q rq restq d := by
  by_cases hqp : q = p
  · have hfree := State.not_lockedAgainst (p := p) hx (.inr ho)
    rw [hqp]
    constructor
    · rintro ⟨-, -, -, hlocked, -⟩
      exact absurd hlocked hfree
    · rintro ⟨-, -, -, hlocked, -⟩
      exact absurd hlocked hfree
  · have hport : (s.setPort p ((s.port p).headTaken rest)).port q = s.port q := by simp [hqp]
    refine State.waitsFor_congr (s := s) (s' := s.setPort p _) rfl ?_ ?_ ?_ ?_ ?_ <;> rw [hport]

/-! ### BREAK_HEAD (R74, R75) -/

theorem exec_breakHead_eq (h : s.readyLockKind p .brk = some (r, e, x)) (hq : (s.port p).requests = r :: rest) :
    exec (.breakHead p) s = .next (x.owner.elim
      ((s.setPort p ((s.port p).headTaken rest)).settle [(p, plainRecord r .ok (some (previousOf x.releaseReason)))])
      fun q =>
        if q = p then (s.setPort p ((s.port p).headTaken rest)).settle [(p, plainRecord r .ok (some .alreadyOwned))]
        else if (s.port q).level ≤ (s.port p).level then
          (s.setPort p ((s.port p).headTaken rest)).settle [(p, plainRecord r .outranked none)]
        else ((s.setPort p ((s.port p).headTaken rest)).breakLock p q e r.lease.toNat).settle
          [(p, plainRecord r .ok (some .broken))]) := by
  simp only [exec, execBreakHead, h, State.modPort_takeHead hq]
  cases x.owner <;> rfl

/-- What a BREAK that takes the lock from port `q` makes of the state (R75, R84). -/
theorem State.breakLock_eq (hx : s.entry e = some x) (p q : Port) (lease : Nat) : s.breakLock p q e lease =
    ((s.setPort q ((s.port q).raise .lockBroken)).setEntry e (some { x with
        owner := some p, leaseValue := lease, leaseRemaining := lease * 4, releaseReason := .broken })).setCurrent
      (s.scheduler.current.map fun c =>
        if c.slot = none ∧ c.port = q ∧ c.entry = e ∧ c.ownedAtGrant = true then
          { c with lockLost := true } else c) := by
  have hx' : (s.setCurrent (s.scheduler.current.map fun c =>
      if c.slot = none ∧ c.port = q ∧ c.entry = e ∧ c.ownedAtGrant = true then
        { c with lockLost := true } else c)).entry e
        = some x := hx
  rw [State.breakLock, State.markLockLost_eq, State.modEntry_eq hx']
  rfl

end

/-! ### The statements -/

/-- Settles O33: the LOCK head is taken by the Lock logic, or it is held back and judged. -/
theorem lockTakesOrDefers : Obligations.LockTakesOrDefers := by
  intro s p r rest e x hq hk he hx
  refine ⟨fun h ha ho => ?taken, fun q ho hne hm hd => ?deferred, fun q ho hne => ?judged⟩
  case taken =>
    rw [exec_lockHead_taken (State.readyLockKind_lock h hk he hx ha ho) hq, plainRecord_of_ne_fence (by simp [hk])]
    cases x.releaseReason <;> rfl
  case deferred =>
    have hheld := State.heldBack_lock hk he hx ho hne
    rw [exec_lockHead_held hq hk hheld, State.judgedPort_held hq hheld hm, hd]
    rfl
  case judged =>
    have hjudged := s.headJudged_judgedPort p
    rw [hq] at hjudged
    refine ⟨_, _, ?_, hjudged⟩
    rw [exec_lockHead_held hq hk (State.heldBack_lock hk he hx ho hne), ← State.judgedPort_eq]

/-- Settles O34: the release that the UNLOCK makes, by whether a head waits for the lock. -/
theorem unlockReleasesOrHandsOver : Obligations.UnlockReleasesOrHandsOver := by
  intro s p r rest e x h hk he hx ha
  have hready := State.readyLockKind_undeferred h hk rfl he hx ha
  obtain ⟨-, -, hq, -⟩ := h
  have hexec := exec_unlockHead_eq hready hq
  simp only [plainRecord_of_ne_fence (show r.kind ≠ .fence by simp [hk])] at hexec
  have hx' : (s.setPort p ((s.port p).headTaken rest)).entry e = some x := hx
  refine ⟨fun ho => hexec.trans (by rw [if_neg ho]), fun ho hnone => ?_, fun ho q rq restq hheir => ?_⟩
  all_goals rw [if_pos ho] at hexec
  · rw [hexec, State.release_unclaimed hx' (.inr fun q rq restq d hw =>
      hnone q rq restq d ((State.waitsFor_headTaken hx ho).mp hw))]
  · have hheir' : (s.setPort p ((s.port p).headTaken rest)).heir e q rq restq := by
      obtain ⟨d, hw, hmax⟩ := hheir
      exact ⟨d, (State.waitsFor_headTaken hx ho).mpr hw, fun q' r' rest' d' hw' =>
        hmax q' r' rest' d' ((State.waitsFor_headTaken hx ho).mp hw')⟩
    have hne : q ≠ p := by
      rintro rfl
      obtain ⟨d, ⟨-, -, -, hlocked, -⟩, -⟩ := hheir
      exact State.not_lockedAgainst hx (.inr ho) hlocked
    rw [hexec, State.release_claimed hx' ha hheir', State.port_setPort, if_neg hne]
    rfl

/-- Settles O35: the BREAK's four outcomes, by the owner of the lock and its rank. -/
theorem breakPassesOutrankedLock : Obligations.BreakPassesOutrankedLock := by
  intro s p r rest e x h hk he hx ha
  have hready := State.readyLockKind_undeferred h hk rfl he hx ha
  obtain ⟨-, -, hq, -⟩ := h
  have hexec := exec_breakHead_eq hready hq
  simp only [plainRecord_of_ne_fence (show r.kind ≠ .fence by simp [hk])] at hexec
  refine ⟨fun ho => ?_, fun ho => ?_, fun q ho hne => ⟨fun hlevel => ?_, fun hlevel => ?_⟩⟩
  all_goals rw [ho] at hexec
  · rw [hexec]
    cases x.releaseReason <;> rfl
  · exact hexec.trans (by rw [Option.elim_some, if_pos rfl])
  · exact hexec.trans (by rw [Option.elim_some, if_neg hne, if_pos hlevel])
  · have hx' : (s.setPort p ((s.port p).headTaken rest)).entry e = some x := hx
    rw [hexec, Option.elim_some, if_neg hne, if_neg (not_le.mpr hlevel), State.breakLock_eq hx',
      State.port_setPort, if_neg hne]
    rfl

end Sys2Proof.Machine

/-! SUPPORT. The head states, heads that are not taken, and heads that end without the bus, with the statement about
them. -/

namespace Sys2Proof.Machine

section
variable {s : State} {p : Port} {r : Request} {rest : List Request}

/-! ### The head states (R32, R38) -/

theorem State.headState_none (h : (s.port p).requests = []) : s.headState p = none := by
  simp [State.headState, State.head, h]

theorem State.headState_held (hq : (s.port p).requests = r :: rest) (h : s.heldBack p r)
    (hm : (s.port p).lockedMark = false) : s.headState p = some .deferred := by
  have hb := (State.headBlocked_iff hq).mpr h
  simp [State.headState, State.head, hq, hb, hm]

theorem State.headState_free (hq : (s.port p).requests = r :: rest)
    (h : ¬ s.heldBack p r ∨ (s.port p).lockedMark = true) : s.headState p =
      some (if (s.port p).completions.length + (s.port p).credits < 8 then .queued else .creditWait) := by
  have hb : (s.headBlocked p && !(s.port p).lockedMark) = false := by
    obtain h | h := h
    · rw [Bool.eq_false_iff.mpr fun hb => h ((State.headBlocked_iff hq).mp hb), Bool.false_and]
    · rw [h, Bool.not_true, Bool.and_false]
  have hsome : (s.head p).isNone = false := by simp [State.head, hq]
  simp only [State.headState, hsome, hb, Bool.false_eq_true, if_false, PortUnit.creditFree, decide_eq_true_eq]
  split <;> rfl

/-! ### Heads that are not taken (R50) -/

/-- Outside RUN, on a port that is not ACTIVE, without a request or without a free credit, no head may be taken. -/
def State.headless (s : State) (p : Port) : Prop :=
  s.phase ≠ .run ∨ (s.port p).state ≠ .active ∨ (s.port p).requests = []
    ∨ 8 ≤ (s.port p).completions.length + (s.port p).credits

theorem State.headless.readyHead (h : s.headless p) : s.readyHead p = none := by
  refine Option.eq_none_iff_forall_ne_some.mpr fun r hr => ?_
  obtain ⟨⟨rest, hrun, hactive, hq, hcredit, -⟩, -⟩ := State.readyHead_eq_some.mp hr
  obtain h | h | h | h := h
  · exact h hrun
  · exact h hactive
  · rw [h] at hq
    cases hq
  · omega

theorem State.headless.readyLockKind (h : s.headless p) (k : Kind) : s.readyLockKind p k = none := by
  simp only [State.readyLockKind, h.readyHead]

theorem State.headless.endStatus (h : s.headless p) : s.endStatus p = none := by
  unfold State.endStatus
  refine if_neg ?_
  rintro ⟨hrun, hactive, hqueued⟩
  obtain h | h | h | h := h
  · exact h hrun
  · exact h hactive
  · rw [State.headState_none h] at hqueued
    cases hqueued
  · have := of_decide_eq_true (State.creditFree_of_queued hqueued)
    omega

/-- LOCK_HEAD on a head that the Lock logic does not take: a LOCK head is judged, another left. -/
theorem exec_lockHead_left (h : s.readyLockKind p .lock = none) :
    exec (.lockHead p) s = .next (if (s.head p).any fun r => r.kind = .lock then s.judgeHead p else s) := by
  simp only [exec, execLockHead, h]

/-! ### END_WITHOUT_BUS (R51, R52, R58) -/

theorem exec_endWithoutBus_none (h : s.endStatus p = none) : exec (.endWithoutBus p) s = .next s := by
  simp only [exec, execEndWithoutBus, h]

theorem exec_endWithoutBus_some {st : Status} (h : s.endStatus p = some st) (hq : (s.port p).requests = r :: rest)
    (hk : r.kind ≠ .fence) : exec (.endWithoutBus p) s = .next
      ((s.setPort p ((s.port p).headTaken rest)).settle [(p, recordWithoutBus r r.entry st none)]) := by
  have hhead : s.head p = some r := by simp [State.head, hq]
  simp only [exec, execEndWithoutBus, h, hhead, State.modPort_takeHead hq, plainRecord_of_ne_fence hk]

/-- A head that is held back and not fixed as LOCKED goes on. -/
theorem State.endStatus_held (hq : (s.port p).requests = r :: rest) (h : s.heldBack p r)
    (hm : (s.port p).lockedMark = false) : s.endStatus p = none := by
  unfold State.endStatus
  refine if_neg ?_
  rw [State.headState_held hq h hm]
  simp

/-- How a head with a free credit ends that nothing holds back, or that is fixed as LOCKED. -/
theorem State.endStatus_free {e : EntryNo} {x : Entry} (hrun : s.phase = .run) (hactive : (s.port p).state = .active)
    (hq : (s.port p).requests = r :: rest) (hcredit : (s.port p).completions.length + (s.port p).credits < 8)
    (he : entryOfByte r.entry = some e) (hx : s.entry e = some x)
    (h : ¬ s.heldBack p r ∨ (s.port p).lockedMark = true) : s.endStatus p =
      if (s.port p).lockedMark = true then some .locked
      else if asksHealth r.kind = true ∧ x.nackCount = 3 then some .noDevice
      else if isBusKind r.kind = true ∧ s.engine.busState = .faulted then some .busFault
      else none := by
  have hqueued : s.headState p = some .queued := by rw [State.headState_free hq h, if_pos hcredit]
  have hhead : s.head p = some r := by simp [State.head, hq]
  have hentry : s.requestEntry r = some x := by rw [State.requestEntry, he]; exact hx
  simp [State.endStatus, hrun, hactive, hqueued, hhead, hentry, Entry.absent]

end

/-- Settles O36: the head states by what holds the head back, the heads that no command takes, and the ends of the
others by the order in which they are looked for. -/
theorem headsEndWithoutBus : Obligations.HeadsEndWithoutBus := by
  refine ⟨fun s p => ⟨State.headState_none, fun r rest hq => ⟨fun h => State.headState_held hq h.1 h.2,
    State.headState_free hq⟩⟩, fun s p (h : s.headless p) => ⟨fun i hi => ?left, ?lock⟩, ?ends⟩
  case left =>
    simp only [List.mem_cons, List.not_mem_nil, or_false] at hi
    obtain rfl | rfl | rfl | rfl | rfl := hi
    · simp only [exec_fenceHead, h.readyHead]
    · simp only [exec_pollParking, h.readyHead]
    · simp only [exec, execUnlockHead, h.readyLockKind]
    · simp only [exec, execBreakHead, h.readyLockKind]
    · exact exec_endWithoutBus_none h.endStatus
  case lock =>
    have hexec := exec_lockHead_left (h.readyLockKind .lock)
    by_cases hlock : ((s.head p).any fun r => r.kind = .lock) = true
    · rw [if_pos hlock] at hexec
      refine ⟨_, _, ?_, fun _ => s.headJudged_judgedPort p, fun hno => ?_⟩
      · rw [← State.judgedPort_eq]
        exact hexec
      · obtain ⟨r, hr, hk⟩ := (Option.any_eq_true _ _).mp hlock
        exact absurd (of_decide_eq_true hk) (hno r hr)
    · rw [if_neg hlock] at hexec
      refine ⟨_, _, hexec.trans (congrArg _ (s.setPort_self p).symm), fun ⟨r, hr, hk⟩ => ?_, fun _ => ⟨rfl, rfl⟩⟩
      exact absurd ((Option.any_eq_true _ _).mpr ⟨r, hr, decide_eq_true hk⟩) hlock
  case ends =>
    intro s p r rest e x hrun hactive hq hcredit hk he hx
    have hfree := State.endStatus_free hrun hactive hq hcredit he hx
    refine ⟨fun hm hstays => exec_endWithoutBus_none ?_, fun hm => exec_endWithoutBus_some ?_ hq hk,
      fun hm hheld => ⟨fun habsent hkind => exec_endWithoutBus_some ?_ hq hk,
        fun hfaulted hkind => exec_endWithoutBus_some ?_ hq hk⟩⟩
    · by_cases hheld : s.heldBack p r
      · exact State.endStatus_held hq hheld hm
      · obtain ⟨hhealth, hbus⟩ := hstays.resolve_left hheld
        rw [hfree (.inl hheld), if_neg (by simp [hm]), if_neg, if_neg]
        · rintro ⟨hbusKind, hfaulted⟩
          refine (hbus.resolve_left (not_not.mpr hfaulted)) ?_
          revert hbusKind
          cases r.kind <;> simp [isBusKind]
        · rintro ⟨hasks, habsent⟩
          obtain hpoll | hprobe := hhealth.resolve_left (not_not.mpr habsent)
          · simp [hpoll, asksHealth] at hasks
          · simp [hprobe, asksHealth] at hasks
    · rw [hfree (.inr hm), if_pos hm]
    · have hasks : asksHealth r.kind = true := by
        revert hkind
        cases r.kind <;> simp [asksHealth]
      rw [hfree (.inl hheld), if_neg (by simp [hm]), if_pos ⟨hasks, habsent⟩]
    · have hbusKind : isBusKind r.kind = true := by
        revert hkind
        cases r.kind <;> simp [isBusKind]
      rw [hfree (.inl hheld), if_neg (by simp [hm]), if_neg, if_pos ⟨hbusKind, hfaulted⟩]
      rintro ⟨hasks, habsent⟩
      obtain hprobe | ⟨hpresent, -⟩ := hkind
      · simp [hprobe, asksHealth] at hasks
      · exact hpresent habsent

end Sys2Proof.Machine

/-! SUPPORT. LEASE_EXPIRY, health after an address outcome, and the statements about them. -/

namespace Sys2Proof.Machine

/-! ### LEASE_EXPIRY (R70, R71, R76, R84) -/

/-- Two ports are written in either order. -/
theorem State.setPort_comm (s : State) {p q : Port} (h : p ≠ q) (u v : PortUnit) :
    (s.setPort p u).setPort q v = (s.setPort q v).setPort p u := by
  simp only [State.setPort]
  rw [Vector.set_comm]
  exact fun hv => h (Fin.ext hv)

section
variable {s : State} {e : EntryNo}

/-- With no entry, no lock, or time left nothing expires. -/
theorem exec_leaseExpiry_early (h : ∀ x, s.entry e = some x → x.owner = none ∨ x.leaseRemaining ≠ 0) :
    exec (.leaseExpiry e) s = .next s := by
  cases hx : s.entry e with
  | none => simp only [exec, execLeaseExpiry, hx]
  | some x =>
    cases ho : x.owner with
    | none => simp only [exec, execLeaseExpiry, hx, ho]
    | some p =>
      have hleft : x.leaseRemaining ≠ 0 := (h x hx).resolve_left (by simp [ho])
      simp only [exec, execLeaseExpiry, hx, ho, if_neg hleft]

theorem exec_leaseExpiry_expired {x : Entry} {p : Port} (hx : s.entry e = some x) (ho : x.owner = some p)
    (hzero : x.leaseRemaining = 0) : exec (.leaseExpiry e) s = .next
      ((((s.markLockLost e p).release e .expired).1.raise p .leaseExpired).settle
        ((s.markLockLost e p).release e .expired).2) := by
  simp only [exec, execLeaseExpiry, hx, ho, if_pos hzero]

end

/-- Settles O50: the release of a lock whose lease has run out, by whether a head waits for it. -/
theorem leaseExpiryReleasesLock : Obligations.LeaseExpiryReleasesLock := by
  refine ⟨fun s e h => exec_leaseExpiry_early h, fun s s' e x p hx ho hzero hs' => ?_⟩
  have hexec := exec_leaseExpiry_expired hx ho hzero
  rw [State.markLockLost_eq] at hexec
  generalize (s.scheduler.current.map fun c =>
    if c.slot = none ∧ c.port = p ∧ c.entry = e ∧ c.ownedAtGrant = true then { c with lockLost := true } else c)
      = current at hexec hs'
  have hx' : (s.setCurrent current).entry e = some x := hx
  refine ⟨fun hfree => ?freed, fun ha q rq restq hheir => ?passed⟩
  case freed =>
    rw [State.release_unclaimed hx' hfree] at hexec
    rw [hexec, hs']
    rfl
  case passed =>
    have hne : p ≠ q := by
      rintro rfl
      obtain ⟨d, ⟨-, -, -, hlocked, -⟩, -⟩ := hheir
      exact State.not_lockedAgainst hx (.inr ho) hlocked
    have hheir' : (s.setCurrent current).heir e q rq restq := hheir
    rw [State.release_claimed hx' ha hheir'] at hexec
    rw [hexec, hs', State.raise, State.modPort, State.port_setPort, if_neg hne, State.setPort_comm _ hne.symm]
    rfl

/-! ### Health (R14, R16) -/

section
variable {s : State} {e : EntryNo} {x : Entry}

/-- What an address outcome makes of a port: an event in the watchers when the count reaches 3 or leaves it. -/
theorem State.port_relayHealth (hx : s.entry e = some x) (out : AddressOutcome) (p : Port) :
    (s.relayHealth e out).port p =
      if hasBit x.watchSet p = true ∧ x.nackCount ≠ 3 ∧ countAfter x.nackCount out = 3 then (s.port p).raise .deviceLost
      else if hasBit x.watchSet p = true ∧ x.nackCount = 3 ∧ countAfter x.nackCount out ≠ 3 then
        (s.port p).raise .deviceBack
      else s.port p := by
  unfold State.relayHealth
  rw [hx]
  by_cases hw : hasBit x.watchSet p = true
  · simp only [hw, true_and]
    split
    · simp [State.raiseIn, hw]
    · split
      · simp [State.raiseIn, hw]
      · simp
  · simp only [hw, Bool.false_eq_true, false_and, if_false]
    split
    · simp [State.raiseIn, hw]
    · split
      · simp [State.raiseIn, hw]
      · simp

/-- Health as the count shows it (R14). -/
theorem Entry.health_cases (x : Entry) : (x.nackCount.val = 0 → x.health = .present)
    ∧ (x.nackCount.val = 3 → x.health = .absent)
    ∧ (x.nackCount.val = 1 ∨ x.nackCount.val = 2 → x.health = .suspect) := by
  unfold Entry.health
  generalize x.nackCount = n
  revert n
  decide

end

/-- Settles O42: the entry and the ports after an address outcome. -/
theorem healthFollowsAddressOutcome : Obligations.HealthFollowsAddressOutcome := by
  intro s e x out hx
  obtain ⟨hnack, hack, hnone⟩ := countAfter_val x.nackCount
  obtain ⟨hpresent, habsent, hsuspect⟩ := Entry.health_cases { x with nackCount := countAfter x.nackCount out }
  have hframe := s.relayHealth_eq e out
  refine ⟨_, { x with nackCount := countAfter x.nackCount out }, rfl, by simp [State.entry_relayHealth, hx], rfl,
    fun h => h ▸ hnack, fun h => h ▸ hack, fun h => h ▸ hnone, hpresent, habsent, hsuspect,
    fun e' he' => by rw [State.entry_relayHealth, if_neg he'], State.port_relayHealth hx out, ?_⟩
  rw [hframe]
  exact ⟨rfl, rfl, rfl, rfl⟩

end Sys2Proof.Machine

/-! SUPPORT. The end of a transaction of the scheduler: who takes the report, what everyone sees of it, and the
statement about the request that it served. -/

namespace Sys2Proof.Machine

section
variable {s t u : State} {recs : List (Port × Completion)}

/-! ### What a report step does with an outcome (R112) -/

/-- With no transaction on the bus that has an outcome nothing has ended. -/
theorem Engine.ended_none {e : Engine} (h : ∀ tr, e.transaction = some tr → tr.outcome = none) (q : Requester) :
    e.ended q = none := by
  unfold Engine.ended
  split
  · cases ht : e.transaction with
    | none => rfl
    | some tr =>
      simp only
      split
      · rw [h tr ht, Option.map_none]
      · rfl
  · rfl

/-- The transaction on the bus that has its outcome has ended. -/
theorem Engine.ended_some {e : Engine} {tr : Transaction} {st : BusStatus} (hb : e.busState = .busy)
    (hr : e.recovery = none) (ht : e.transaction = some tr) (ho : tr.outcome = some st) :
    e.ended tr.requester = some (tr, st) := by
  simp [Engine.ended, hb, hr, ht, ho]

/-- A report step without an outcome is the engine's reading alone. -/
theorem State.afterReading_none {α : Type} {bus : BusRead} {ended : State → Option α} {act : α → State → State}
    (h : ended (s.setEngine (s.engine.reads bus.samples).1) = none) :
    s.afterReading bus ended act = s.setEngine ((s.engine.reads bus.samples).1.stretchAfter bus.mckLow) := by
  simp only [State.afterReading, h]
  rfl

/-- A report step with an outcome: it is taken, and the samples left over belong to what comes next. -/
theorem State.afterReading_some {α : Type} {bus : BusRead} {ended : State → Option α} {act : α → State → State} {x : α}
    (h : ended (s.setEngine (s.engine.reads bus.samples).1) = some x) :
    s.afterReading bus ended act = (act x (s.setEngine (s.engine.reads bus.samples).1)).busRuns
      (s.engine.reads bus.samples).2 bus.mckLow := by
  simp only [State.afterReading, h]

/-- The engine once a transaction has ended with a status (R112). -/
def Engine.afterEnd (e : Engine) (st : BusStatus) : Engine := if st = .stuck then e.recover .afterStuck else e.idle

/-- The scheduler takes the report of its transaction. -/
theorem State.endTransaction_scheduler {tr : Transaction} (hq : tr.requester = .scheduler) (e : Engine)
    (st : BusStatus) :
    (s.setEngine e).endTransaction tr st false = (s.setEngine (e.afterEnd st)).schedulerReport (tr.report st) := by
  rw [State.endTransaction, hq, State.engineAfter_eq]
  rfl

/-- The engine after a transaction's end, and whatever it then reads. -/
theorem State.engine_afterEnd {e : Engine} {st : BusStatus} (h : u.engine = e.afterEnd st) (l : List Bool) (m : Bool) :
    (u.busRuns l m).engine.transaction = none
      ∧ (st ≠ .stuck → (u.busRuns l m).engine.busState = .ready ∧ (u.busRuns l m).engine.recovery = none)
      ∧ (st = .stuck → (u.busRuns l m).engine.busState = .recovering
          ∧ ((u.busRuns l m).engine.recovery.any fun r => r.cause = .afterStuck) = true) := by
  unfold Engine.afterEnd at h
  split at h
  next hst =>
    obtain ⟨hb, ht, hc⟩ := State.busRuns_recover h l m
    exact ⟨ht, fun hne => absurd hst hne, fun _ => ⟨hb, hc⟩⟩
  next hst =>
    have hstill : u.engine.driving = false := by rw [h]; rfl
    rw [State.busRuns_still hstill, h]
    exact ⟨rfl, fun _ => ⟨rfl, rfl⟩, fun heq => absurd heq hst⟩

/-! ### Health and notices, apart from the bus (R16, R153) -/

theorem State.relayHealth_setEngine (s : State) (E : Engine) (e : EntryNo) (out : AddressOutcome) :
    (s.setEngine E).relayHealth e out = (s.relayHealth e out).setEngine E := by
  unfold State.relayHealth
  rw [State.entry_setEngine]
  cases s.entry e with
  | none => rfl
  | some x =>
    simp only
    split
    · rfl
    · split <;> rfl

theorem State.relayHealth_setCurrent (s : State) (c : Option Current) (e : EntryNo) (out : AddressOutcome) :
    (s.setCurrent c).relayHealth e out = (s.relayHealth e out).setCurrent c := by
  unfold State.relayHealth
  rw [State.entry_setCurrent]
  cases s.entry e with
  | none => rfl
  | some x =>
    simp only
    split
    · rfl
    · split <;> rfl

theorem State.writeNotice_setEngine (s : State) (E : Engine) (e : EntryNo) (w : Port) :
    (s.setEngine E).writeNotice e w = (s.writeNotice e w).setEngine E := by
  rw [State.writeNotice, State.writeNotice, State.entry_setEngine]
  cases s.entry e <;> rfl

theorem State.writeNotice_setCurrent (s : State) (c : Option Current) (e : EntryNo) (w : Port) :
    (s.setCurrent c).writeNotice e w = (s.writeNotice e w).setCurrent c := by
  rw [State.writeNotice, State.writeNotice, State.entry_setCurrent]
  cases s.entry e <;> rfl

/-- An address outcome changes no more of a port than its Notify Unit. -/
theorem State.port_relayHealth_eq (s : State) (e : EntryNo) (out : AddressOutcome) (p : Port) :
    (s.relayHealth e out).port p = { s.port p with notify := ((s.relayHealth e out).port p).notify } := by
  cases hx : s.entry e with
  | none => simp only [State.relayHealth, hx]
  | some x =>
    rw [State.port_relayHealth hx]
    split
    · exact PortUnit.raise_eq _ _
    · split
      · exact PortUnit.raise_eq _ _
      · rfl

/-- Nor does a write notice. -/
theorem State.port_writeNotice_eq (s : State) (e : EntryNo) (w p : Port) :
    (s.writeNotice e w).port p = { s.port p with notify := ((s.writeNotice e w).port p).notify } := by
  cases hx : s.entry e with
  | none => simp only [State.writeNotice, hx]
  | some x =>
    rw [State.port_writeNotice hx]
    split
    · rw [PortUnit.notice, PortUnit.raise_eq]
      rfl
    · rfl

/-- An event leaves the Changed Set. -/
theorem PortUnit.changed_raise (v : PortUnit) (f : Flag) : (v.raise f).notify.changed = v.notify.changed := by
  unfold PortUnit.raise
  split <;> rfl

theorem State.changed_relayHealth (s : State) (e : EntryNo) (out : AddressOutcome) (p : Port) :
    ((s.relayHealth e out).port p).notify.changed = (s.port p).notify.changed := by
  cases hx : s.entry e with
  | none => simp only [State.relayHealth, hx]
  | some x =>
    rw [State.port_relayHealth hx]
    split
    · exact PortUnit.changed_raise _ _
    · split
      · exact PortUnit.changed_raise _ _
      · rfl

/-- A write notice puts the entry into the Changed Set of every watcher but the writer (R153). -/
theorem State.hasBit_changed_writeNotice {e : EntryNo} {x : Entry} (hx : s.entry e = some x) {w p : Port} (hp : p ≠ w)
    (hw : hasBit x.watchSet p = true) : hasBit ((s.writeNotice e w).port p).notify.changed e = true := by
  rw [State.port_writeNotice hx, if_pos ⟨hw, hp⟩, PortUnit.notice, PortUnit.changed_raise]
  exact (hasBit_withBit _ _ _).trans (by simp)

/-- The entry that a transaction named, after its report (R15, R16). -/
theorem countAfter_outcomeOf (n : Fin 4) (st : BusStatus) :
    (st = .nackAddr → (countAfter n (outcomeOf st)).val = min 3 (n.val + 1))
      ∧ (st = .ok ∨ st = .nackData → countAfter n (outcomeOf st) = 0)
      ∧ (st = .stuck → countAfter n (outcomeOf st) = n) := by
  obtain ⟨hnack, hack, hnone⟩ := countAfter_val n
  refine ⟨?_, ?_, ?_⟩
  · rintro rfl
    exact hnack
  · rintro (rfl | rfl)
    · exact hack
    · exact hack
  · rintro rfl
    exact hnone

/-! ### What judging keeps -/

/-- Judging, and the engine, leave the current record, the turn, phase and time, and of each port its queue of requests
and its state. -/
theorem State.judgedInto_keeps (h : u.judgedInto t recs) :
    t.scheduler.current = u.scheduler.current ∧ t.scheduler.turn = u.scheduler.turn ∧ t.phase = u.phase
      ∧ t.timeBase = u.timeBase
      ∧ ∀ p, (t.port p).requests = (u.port p).requests ∧ (t.port p).state = (u.port p).state := by
  refine ⟨(congrArg (fun x => x.scheduler.current) h).trans (by simp),
    (congrArg (fun x => x.scheduler.turn) h).trans (by simp),
    (congrArg State.phase h).trans (by simp), (congrArg State.timeBase h).trans (by simp),
    fun p => ⟨(congrArg (fun x => (x.port p).requests) h).trans ?_, (congrArg (fun x => (x.port p).state) h).trans ?_⟩⟩
  · rw [State.port_settle_eq]
    rfl
  · rw [State.port_settle_eq]
    rfl

/-- With no record given for a port only those of polls that end join its queue. -/
theorem State.onlyPollsEnd_of_noRecord (h : u.judgedInto t recs) {p : Port} (hno : ∀ rec, (p, rec) ∉ recs)
    (hc : (u.port p).completions = (s.port p).completions) (hp : ∀ k, u.poll k = s.poll k) : s.onlyPollsEnd t p := by
  obtain ⟨more, hmore, hmem⟩ := State.completions_judgedInto h p
  refine ⟨more, hmore.trans (by rw [hc]), fun rec hrec => ?_⟩
  have hends := (List.mem_append.mp ((hmem rec).mp hrec)).resolve_left (hno rec)
  obtain ⟨k, q, st, hq, hfree, hz⟩ := State.freed_of_mem_pollEnds hends recs
  obtain ⟨rfl, rfl⟩ := Prod.mk.inj hz
  exact ⟨k, q, st, (hp k).symm.trans hq, rfl, (congrArg (fun x => x.poll k) h).trans hfree, rfl⟩

/-! ### The end of a request's transaction (R64, R65) -/

/-- What the report of a request's transaction does before heads and slots are judged: health, and a write notice. -/
def State.requestEnd (s : State) (c : Current) (r : Report) : State :=
  if (c.kind = .write ∨ c.kind = .send) ∧ 1 ≤ r.count then
    (s.relayHealth c.entry (outcomeOf r.status)).writeNotice c.entry c.port
  else s.relayHealth c.entry (outcomeOf r.status)

/-- The record that a request's report gives, unless it is to be discarded. -/
def requestRecords (c : Current) (r : Report) : List (Port × Completion) :=
  if c.discard then [] else [(c.port, busRecord c r)]

/-- The scheduler takes the report of a request, whatever the engine then is. -/
theorem State.schedulerReport_request {c : Current} (hc : s.scheduler.current = some c) (hs : c.slot = none)
    (r : Report) (e : Engine) : (s.setEngine e).schedulerReport r =
      (((s.requestEnd c r).setCurrent none).setEngine e).settle (requestRecords c r) := by
  simp only [State.schedulerReport, State.scheduler_setEngine, hc, hs, State.requestReport, State.requestEnd,
    requestRecords,
    State.relayHealth_setCurrent, State.relayHealth_setEngine]
  split
  · rw [State.writeNotice_setCurrent, State.writeNotice_setEngine]
    rfl
  · rfl

/-- It leaves the bus, the scheduler, phase and time. -/
theorem State.requestEnd_eq (s : State) (c : Current) (r : Report) :
    s.requestEnd c r = { s with ports := (s.requestEnd c r).ports, directory := (s.requestEnd c r).directory } := by
  unfold State.requestEnd
  split
  · rw [State.writeNotice_eq, State.relayHealth_eq]
  · exact State.relayHealth_eq s _ _

/-- Of each port it changes the Notify Unit alone. -/
theorem State.port_requestEnd (s : State) (c : Current) (r : Report) (p : Port) :
    (s.requestEnd c r).port p = { s.port p with notify := ((s.requestEnd c r).port p).notify } := by
  unfold State.requestEnd
  split
  · rw [State.port_writeNotice_eq, State.port_relayHealth_eq]
  · exact State.port_relayHealth_eq s _ _ p

theorem State.entry_requestEnd (s : State) (c : Current) (r : Report) (e : EntryNo) :
    (s.requestEnd c r).entry e = (s.relayHealth c.entry (outcomeOf r.status)).entry e := by
  unfold State.requestEnd
  split
  · rw [State.writeNotice_eq]
    rfl
  · rfl

end

end Sys2Proof.Machine

/-! SUPPORT. TRANSACTION_COMPLETE: the step, and the statement about it. -/

namespace Sys2Proof.Machine

section
variable {s t : State} {bus : BusRead} {tr : Transaction} {st : BusStatus} {c : Current}

/-- A report command finds no outcome: the engine has read the wires, and that is all (log 1). -/
theorem exec_report_none (h : ∀ tr, (s.engine.reads bus.samples).1.transaction = some tr → tr.outcome = none)
    {i : Instr} (hi : i ∈ [Instr.transactionComplete bus, .pollIterationComplete bus, .loaderReadComplete bus]) :
    exec i s = .next (s.setEngine ((s.engine.reads bus.samples).1.stretchAfter bus.mckLow)) := by
  have hnone := Engine.ended_none h
  simp only [List.mem_cons, List.not_mem_nil, or_false] at hi
  rcases hi with rfl | rfl | rfl
  · have hend : (s.setEngine (s.engine.reads bus.samples).1).requestEnded = none := by
      simp only [State.requestEnded, State.engine_setEngine, hnone, ite_self]
    exact congrArg Host.Outcome.next (State.afterReading_none hend)
  · have hend : (s.setEngine (s.engine.reads bus.samples).1).iterationEnded = none := by
      simp only [State.iterationEnded, State.engine_setEngine, hnone, ite_self]
    exact congrArg Host.Outcome.next (State.afterReading_none hend)
  · exact congrArg Host.Outcome.next (State.afterReading_none (hnone .loader))

/-- A request's transaction has its outcome: the scheduler takes the report, and the engine reads on. -/
theorem exec_transactionComplete_ended
    (hend : (s.engine.reads bus.samples).1.ended .scheduler = some (tr, st)) (hq : tr.requester = .scheduler)
    (hc : s.scheduler.current = some c) (hs : c.slot = none) :
    exec (.transactionComplete bus) s = .next
      (((s.setEngine ((s.engine.reads bus.samples).1.afterEnd st)).schedulerReport (tr.report st)).busRuns
        (s.engine.reads bus.samples).2 bus.mckLow) := by
  have hended : (s.setEngine (s.engine.reads bus.samples).1).requestEnded = some (tr, st) := by
    simp [State.requestEnded, hc, hs, hend]
  refine congrArg Host.Outcome.next ((State.afterReading_some hended).trans ?_)
  rw [State.endTransaction_scheduler hq]

/-- What a request's report does, judged, whatever the engine then is and reads. -/
theorem State.judgedInto_request (hc : s.scheduler.current = some c) (hs : c.slot = none) (r : Report) (e : Engine)
    (l : List Bool) (m : Bool) : ((s.requestEnd c r).setCurrent none).judgedInto
      (((s.setEngine e).schedulerReport r).busRuns l m) (requestRecords c r) := by
  rw [State.schedulerReport_request hc hs]
  exact State.judgedInto_busRuns ((s.requestEnd c r).setCurrent none) e (requestRecords c r) l m

/-- A request's end leaves each port's queues and state, the Poll Table, the turn, phase and time. -/
theorem State.requestEnd_keeps (s : State) (c : Current) (r : Report) :
    (∀ p, (((s.requestEnd c r).setCurrent none).port p).requests = (s.port p).requests
        ∧ (((s.requestEnd c r).setCurrent none).port p).state = (s.port p).state
        ∧ (((s.requestEnd c r).setCurrent none).port p).completions = (s.port p).completions)
      ∧ (∀ k, ((s.requestEnd c r).setCurrent none).poll k = s.poll k)
      ∧ ((s.requestEnd c r).setCurrent none).scheduler.turn = s.scheduler.turn
      ∧ ((s.requestEnd c r).setCurrent none).phase = s.phase
      ∧ ((s.requestEnd c r).setCurrent none).timeBase = s.timeBase := by
  refine ⟨fun p => ?_, ?_⟩
  · simp only [State.port_setCurrent]
    rw [s.port_requestEnd c r p]
    exact ⟨rfl, rfl, rfl⟩
  · rw [s.requestEnd_eq c r]
    exact ⟨fun _ => rfl, rfl, rfl, rfl⟩

/-- The entry that a transaction named, where the directory is the one after the health relay (R15, R16). -/
theorem State.entry_relayed {e : EntryNo} {x : Entry} (ht : t.entry e = (s.relayHealth e (outcomeOf st)).entry e)
    (hx : s.entry e = some x) : ∃ y, t.entry e = some y ∧ y = { x with nackCount := y.nackCount }
      ∧ (st = .nackAddr → y.nackCount.val = min 3 (x.nackCount.val + 1))
      ∧ (st = .ok ∨ st = .nackData → y.nackCount = 0) ∧ (st = .stuck → y.nackCount = x.nackCount) := by
  refine ⟨{ x with nackCount := countAfter x.nackCount (outcomeOf st) }, ?_, rfl,
    countAfter_outcomeOf x.nackCount st⟩
  rw [ht, State.entry_relayHealth, if_pos rfl, hx]
  rfl

/-- Every other entry is left by a health relay. -/
theorem State.entry_relayHealth_ne {e i : EntryNo} (h : i ≠ e) (out : AddressOutcome) :
    (s.relayHealth e out).entry i = s.entry i := by rw [State.entry_relayHealth, if_neg h]

/-- A request's report gives a record to its own port alone, and none when it is to be discarded. -/
theorem not_mem_requestRecords {r : Report} {p : Port} (h : c.discard = true ∨ p ≠ c.port) (rec : Completion) :
    (p, rec) ∉ requestRecords c r := by
  unfold requestRecords
  rcases h with hd | hp
  · simp [hd]
  · split <;> simp [hp]

/-- A request's report that carries out a write reaches the watchers other than the writer (R153). -/
theorem State.hasBit_changed_requestEnd {x : Entry} {r : Report} (hx : s.entry c.entry = some x)
    (hw : (c.kind = .write ∨ c.kind = .send) ∧ 1 ≤ r.count) {q : Port} (hq : q ≠ c.port)
    (hwatch : hasBit x.watchSet q = true) : hasBit ((s.requestEnd c r).port q).notify.changed c.entry = true := by
  rw [State.requestEnd, if_pos hw]
  have hx' : (s.relayHealth c.entry (outcomeOf r.status)).entry c.entry =
      some { x with nackCount := countAfter x.nackCount (outcomeOf r.status) } := by
    rw [State.entry_relayHealth, if_pos rfl, hx]
    rfl
  exact State.hasBit_changed_writeNotice hx' hq hwatch

end

/-- Settles O43: the report of a request's transaction, and a report command that finds no outcome. -/
theorem transactionCompletes : Obligations.TransactionCompletes := by
  refine ⟨?early, ?ended⟩
  case early =>
    rintro s bus eng rfl h i hi
    exact exec_report_none h hi
  case ended =>
    rintro s bus eng tr st c rfl hb hr ht hq ho hc hs
    have hend := Engine.ended_some hb hr ht ho
    rw [hq] at hend
    refine ⟨_, exec_transactionComplete_ended hend hq hc hs, ?_⟩
    have h := State.judgedInto_request hc hs (tr.report st) ((s.engine.reads bus.samples).1.afterEnd st)
      (s.engine.reads bus.samples).2 bus.mckLow
    have hengine := State.engine_afterEnd (st := st) (e := (s.engine.reads bus.samples).1)
      (u := (s.setEngine ((s.engine.reads bus.samples).1.afterEnd st)).schedulerReport (tr.report st))
      (by rw [State.schedulerReport_request hc hs, State.engine_settle]; rfl)
      (s.engine.reads bus.samples).2 bus.mckLow
    generalize ((s.setEngine ((s.engine.reads bus.samples).1.afterEnd st)).schedulerReport (tr.report st)).busRuns
      (s.engine.reads bus.samples).2 bus.mckLow = t at h hengine
    obtain ⟨hidle, hready, hstuck⟩ := hengine
    obtain ⟨hcurrent, hturn, hphase, htime, hports⟩ := State.judgedInto_keeps h
    obtain ⟨hport, hpolls, hturn', hphase', htime'⟩ := s.requestEnd_keeps c (tr.report st)
    have hentry : ∀ e, t.entry e = (s.relayHealth c.entry (outcomeOf st)).entry e := fun e =>
      (State.entry_of_judgedInto h e).trans (s.entry_requestEnd c (tr.report st) e)
    have hnotify : ∀ p, (t.port p).notify = ((s.requestEnd c (tr.report st)).port p).notify := fun p =>
      (State.notify_of_judgedInto h p).trans rfl
    refine ⟨hcurrent, fun hne => ⟨(hready hne).1, hidle⟩, hstuck, fun hd => ?record, fun p hno => ?others,
      fun x hx => ?entry, ?notify, ?judged, fun e he => (hentry e).trans (State.entry_relayHealth_ne he _),
      fun p => ⟨(hports p).1.trans (hport p).1, (hports p).2.trans (hport p).2.1⟩, hturn.trans hturn',
      hphase.trans hphase', htime.trans htime'⟩
    case record =>
      refine State.recordJoins_of_judgedInto h (hport c.port).2.2 ?_
      rw [requestRecords, hd]
      cases st <;> exact List.mem_singleton.mpr rfl
    case others =>
      exact State.onlyPollsEnd_of_noRecord h (not_mem_requestRecords hno) (hport p).2.2 hpolls
    case entry =>
      obtain ⟨y, hy, heq, hnack, hack, hnone⟩ := State.entry_relayed (hentry c.entry) hx
      refine ⟨y, hy, heq, hnack, hack, hnone, fun hk hcount q hne hwatch => ?_⟩
      rw [hnotify]
      exact State.hasBit_changed_requestEnd hx ⟨hk, hcount⟩ hne hwatch
    case notify =>
      intro s' hs' p
      obtain rfl : s' = s.relayHealth c.entry (outcomeOf st) := by rw [hs']; cases st <;> rfl
      rw [hnotify, State.requestEnd]
      split <;> rfl
    case judged =>
      intro s' u hs' hu
      obtain rfl : s' = s.relayHealth c.entry (outcomeOf st) := by rw [hs']; cases st <;> rfl
      obtain rfl : u = s.requestEnd c (tr.report st) := hu
      cases st <;> exact h

end Sys2Proof.Machine

/-! SUPPORT. POLL_ITERATION_COMPLETE: the slot takes its report and is judged, and the statement about the step. -/

namespace Sys2Proof.Machine

section
variable {s t u : State} {recs : List (Port × Completion)} {k : SlotNo} {q q' : Poll}

/-! ### A slot as judging leaves it (R90, R91, R94) -/

/-- A slot that judging keeps. -/
theorem State.poll_judgedInto_keep (h : u.judgedInto t recs) (hq : u.poll k = some q)
    (hj : (u.setEngine t.engine).judgeSlot q = .keep q') : t.poll k = some q' :=
  (congrArg (fun x => x.poll k) h).trans (State.poll_settle_keep (s := u.setEngine t.engine) hq hj recs)

/-- A free slot stays free. -/
theorem State.poll_judgedInto_none (h : u.judgedInto t recs) (hq : u.poll k = none) : t.poll k = none := by
  refine (congrArg (fun x => x.poll k) h).trans ?_
  rw [State.poll_settle, State.poll_setEngine, hq, State.judgedSlot_none]

/-- A slot whose poll judging ends: it is free, and the record joins the queue of the poll's port. -/
theorem State.poll_judgedInto_ends {st : Status} (h : u.judgedInto t recs) (hq : u.poll k = some q)
    (hj : (u.setEngine t.engine).judgeSlot q = .ends st)
    (hc : (u.port q.port).completions = (s.port q.port).completions) :
    t.poll k = none ∧ s.recordJoins t q.port (recordOfPoll q st) := by
  obtain ⟨hfree, hrec⟩ := State.ends_of_judgeSlot (s := u.setEngine t.engine) hq hj recs
  obtain ⟨more, hmore, hmem⟩ := State.completions_judgedInto h q.port
  exact ⟨(congrArg (fun x => x.poll k) h).trans hfree, more, hmore.trans (by rw [hc]),
    (hmem _).mpr (List.mem_append_right _ hrec)⟩

/-- A slot that is DUE at once, its entry not ABSENT and the bus not FAULTED, is judged against the lock as it
stands. -/
theorem State.due_judgedInto {x : Entry} (h : u.judgedInto t recs) (hq : u.poll k = some q) (hdue : q.state = .due)
    (hx : u.entry q.entry = some x) (hhealth : x.nackCount ≠ 3) (hbus : t.engine.busState ≠ .faulted)
    (hc : (u.port q.port).completions = (s.port q.port).completions) :
    (x.owner = none ∨ x.owner = some q.port → t.poll k = some q)
      ∧ ∀ o, x.owner = some o → o ≠ q.port →
        (q.waitLimit = 0 → t.poll k = none ∧ s.recordJoins t q.port (recordOfPoll q .locked))
        ∧ (q.waitLimit ≠ 0 →
            t.poll k = some { q with state := .blocked, blockTimer := some (q.blockTimer.getD 0) }) := by
  have hpresent : ¬ (u.setEngine t.engine).entryAbsent q.entry := by
    rintro ⟨y, hy, h3⟩
    obtain rfl := Option.some.inj (hx.symm.trans hy)
    exact hhealth h3
  have hjudge := State.judgeSlot_judged (s := u.setEngine t.engine) (q := q) (.inl hdue)
  refine ⟨fun hfree => ?_, fun o ho hne => ?_⟩
  · have hopen := State.not_lockedAgainst (s := u.setEngine t.engine) hx hfree
    have hsame : { q with state := .due } = q := by rw [← hdue]
    have hkept := hjudge.trans (State.judgeDue_free hpresent hbus hopen)
    rw [hsame] at hkept
    exact State.poll_judgedInto_keep h hq hkept
  · have hlocked := hjudge.trans (State.judgeDue_locked hpresent hbus ⟨x, o, hx, ho, hne⟩)
    exact ⟨fun h0 => State.poll_judgedInto_ends h hq (hlocked.trans (if_pos h0)) hc,
      fun h0 => State.poll_judgedInto_keep h hq (hlocked.trans (if_neg h0))⟩

/-! ### The end of an iteration (R66, R96 to R98) -/

/-- A poll that goes on after its report has read its byte. -/
theorem Poll.status_of_answer_none {now : Time} {rep : Report} (h : q.answer now rep = (q', none)) :
    rep.status = .ok := by
  by_contra hne
  rw [Poll.answer_noByte hne] at h
  cases h

/-- What slot `k` holds once it has taken its iteration's report, unless it is to be discarded, and the record of a poll
that the report ends. -/
def State.slotEnd (s : State) (c : Current) (k : SlotNo) (r : Report) : Option Poll × List (Port × Completion) :=
  if c.discard then (s.poll k, [])
  else
    match s.poll k with
    | none => (none, [])
    | some q =>
      match q.answer s.timeBase r with
      | (q', none) => (some q', [])
      | (q', some st) => (none, [(q.port, recordOfPoll q' st)])

/-- What the report of an iteration does before heads and slots are judged: health, then the slot (R91). -/
def State.iterationEnd (s : State) (c : Current) (k : SlotNo) (r : Report) : State :=
  ((s.relayHealth c.entry (outcomeOf r.status)).setCurrent none).setPoll k (s.slotEnd c k r).1

section
variable {c : Current} {r : Report}

/-- A report to be discarded leaves its slot, as one whose slot is free. -/
theorem State.slotEnd_vacant (h : s.poll k = none ∨ c.discard = true) : s.slotEnd c k r = (s.poll k, []) := by
  unfold State.slotEnd
  split
  · rfl
  next hd =>
    have hnone := h.resolve_right hd
    simp only [hnone]

theorem State.slotEnd_goes_on (hd : c.discard = false) (hq : s.poll k = some q)
    (ha : q.answer s.timeBase r = (q', none)) : s.slotEnd c k r = (some q', []) := by
  simp only [State.slotEnd, hd, hq, ha, Bool.false_eq_true, if_false]

theorem State.slotEnd_ends {st : Status} (hd : c.discard = false) (hq : s.poll k = some q)
    (ha : q.answer s.timeBase r = (q', some st)) :
    s.slotEnd c k r = (none, [(q.port, recordOfPoll q' st)]) := by
  simp only [State.slotEnd, hd, hq, ha, Bool.false_eq_true, if_false]

/-- A health relay leaves the Poll Table and the time. -/
theorem State.poll_relayHealth (s : State) (e : EntryNo) (out : AddressOutcome) (k : SlotNo) :
    (s.relayHealth e out).poll k = s.poll k := by rw [State.relayHealth_eq]; rfl

theorem State.timeBase_relayHealth (s : State) (e : EntryNo) (out : AddressOutcome) :
    (s.relayHealth e out).timeBase = s.timeBase := by rw [State.relayHealth_eq]

/-- The scheduler takes the report of an iteration, whatever the engine then is. -/
theorem State.schedulerReport_iteration (hc : s.scheduler.current = some c) (hs : c.slot = some k) (r : Report)
    (e : Engine) : (s.setEngine e).schedulerReport r =
      ((s.iterationEnd c k r).setEngine e).settle (s.slotEnd c k r).2 := by
  simp only [State.schedulerReport, State.scheduler_setEngine, hc, hs, State.iterationReport, State.iterationEnd,
    State.relayHealth_setCurrent, State.relayHealth_setEngine]
  have hpoll := s.poll_relayHealth c.entry (outcomeOf r.status) k
  have hback := ((s.relayHealth c.entry (outcomeOf r.status)).setCurrent none).setPoll_self k
  rw [State.poll_setCurrent, hpoll] at hback
  cases hd : c.discard with
  | true =>
    rw [State.slotEnd_vacant (.inr hd), hback]
    rfl
  | false =>
    have htime := s.timeBase_relayHealth c.entry (outcomeOf r.status)
    cases hq : s.poll k with
    | none =>
      rw [State.slotEnd_vacant (.inl hq), hback]
      simp only [State.slotReport, State.poll_setCurrent, State.poll_setEngine, hpoll, hq]
      rfl
    | some q =>
      rcases ha : q.answer s.timeBase r with ⟨q', out⟩
      simp only [State.slotReport, State.poll_setCurrent, State.poll_setEngine, State.timeBase_setCurrent,
        State.timeBase_setEngine, hpoll, hq, htime, ha]
      cases out with
      | none =>
        rw [State.slotEnd_goes_on hd hq ha]
        rfl
      | some st =>
        rw [State.slotEnd_ends hd hq ha]
        rfl

/-- What an iteration's report does, judged, whatever the engine then is and reads. -/
theorem State.judgedInto_iteration (hc : s.scheduler.current = some c) (hs : c.slot = some k) (r : Report) (e : Engine)
    (l : List Bool) (m : Bool) : (s.iterationEnd c k r).judgedInto
      (((s.setEngine e).schedulerReport r).busRuns l m) (s.slotEnd c k r).2 := by
  rw [State.schedulerReport_iteration hc hs]
  exact State.judgedInto_busRuns (s.iterationEnd c k r) e (s.slotEnd c k r).2 l m

/-- An iteration's end leaves each port's queues and Changed Set, the other slots, the turn and the phase. -/
theorem State.iterationEnd_keeps (s : State) (c : Current) (k : SlotNo) (r : Report) :
    (∀ p, ((s.iterationEnd c k r).port p).requests = (s.port p).requests
        ∧ ((s.iterationEnd c k r).port p).completions = (s.port p).completions
        ∧ ((s.iterationEnd c k r).port p).notify.changed = (s.port p).notify.changed)
      ∧ (∀ j, (s.iterationEnd c k r).poll j = if j = k then (s.slotEnd c k r).1 else s.poll j)
      ∧ (s.iterationEnd c k r).scheduler.turn = s.scheduler.turn ∧ (s.iterationEnd c k r).phase = s.phase := by
  have hframe := s.relayHealth_eq c.entry (outcomeOf r.status)
  refine ⟨fun p => ?_, fun j => ?_, ?_⟩
  · simp only [State.iterationEnd, State.port_setPoll, State.port_setCurrent]
    refine ⟨?_, ?_, s.changed_relayHealth c.entry _ p⟩
    · rw [s.port_relayHealth_eq c.entry (outcomeOf r.status) p]
    · rw [s.port_relayHealth_eq c.entry (outcomeOf r.status) p]
  · rw [State.iterationEnd, State.poll_setPoll, State.poll_setCurrent, State.poll_relayHealth]
  · rw [State.iterationEnd, hframe]
    exact ⟨rfl, rfl⟩

/-- A poll iteration has its outcome: the scheduler takes the report, and the engine reads on. -/
theorem exec_pollIterationComplete_ended {bus : BusRead} {tr : Transaction} {st : BusStatus}
    (hend : (s.engine.reads bus.samples).1.ended .scheduler = some (tr, st)) (hq : tr.requester = .scheduler)
    (hc : s.scheduler.current = some c) (hs : c.slot = some k) :
    exec (.pollIterationComplete bus) s = .next
      (((s.setEngine ((s.engine.reads bus.samples).1.afterEnd st)).schedulerReport (tr.report st)).busRuns
        (s.engine.reads bus.samples).2 bus.mckLow) := by
  have hended : (s.setEngine (s.engine.reads bus.samples).1).iterationEnded = some (tr, st) := by
    simp [State.iterationEnded, hc, hs, hend]
  refine congrArg Host.Outcome.next ((State.afterReading_some hended).trans ?_)
  rw [State.endTransaction_scheduler hq]

end

end

/-- Settles O45: the report of a poll iteration, by what its slot holds. -/
theorem pollIterationCompletes : Obligations.PollIterationCompletes := by
  rintro s bus eng tr st c k rfl hb hr ht hq ho hc hs
  have hend := Engine.ended_some hb hr ht ho
  rw [hq] at hend
  refine ⟨_, exec_pollIterationComplete_ended hend hq hc hs, ?_⟩
  have h := State.judgedInto_iteration hc hs (tr.report st) ((s.engine.reads bus.samples).1.afterEnd st)
    (s.engine.reads bus.samples).2 bus.mckLow
  have hengine := State.engine_afterEnd (st := st) (e := (s.engine.reads bus.samples).1)
    (u := (s.setEngine ((s.engine.reads bus.samples).1.afterEnd st)).schedulerReport (tr.report st))
    (by rw [State.schedulerReport_iteration hc hs, State.engine_settle]; rfl)
    (s.engine.reads bus.samples).2 bus.mckLow
  generalize ((s.setEngine ((s.engine.reads bus.samples).1.afterEnd st)).schedulerReport (tr.report st)).busRuns
    (s.engine.reads bus.samples).2 bus.mckLow = t at h hengine
  obtain ⟨hidle, hready, hstuck⟩ := hengine
  obtain ⟨hcurrent, hturn, hphase, -, hports⟩ := State.judgedInto_keeps h
  obtain ⟨hport, hpolls, hturn', hphase'⟩ := s.iterationEnd_keeps c k (tr.report st)
  have hslot : (s.iterationEnd c k (tr.report st)).poll k = (s.slotEnd c k (tr.report st)).1 :=
    (hpolls k).trans (if_pos rfl)
  have hentry : ∀ e, t.entry e = (s.relayHealth c.entry (outcomeOf st)).entry e := fun e =>
    (State.entry_of_judgedInto h e).trans rfl
  have hnotify : ∀ p, (t.port p).notify = ((s.relayHealth c.entry (outcomeOf st)).port p).notify := fun p =>
    (State.notify_of_judgedInto h p).trans rfl
  refine ⟨hcurrent, hidle, hready, hstuck, fun e he => (hentry e).trans (State.entry_relayHealth_ne he _),
    fun hnone => ?free, fun hv p => ?vacant, fun q hsq => ⟨fun hd q' out ha => ?ends, fun hd q' ha => ?goesOn,
      fun hd hidleSlot => ?discarded⟩,
    fun x hx => State.entry_relayed (hentry c.entry) hx,
    fun p => ⟨(hports p).1.trans (hport p).1,
      (congrArg NotifyUnit.changed (State.notify_of_judgedInto h p)).trans (hport p).2.2⟩,
    fun p => (hnotify p).trans (by cases st <;> rfl),
    ⟨(s.slotEnd c k (tr.report st)).1, (s.slotEnd c k (tr.report st)).2, by cases st <;> exact h, fun hv => ?_,
      fun q hsq hd q' out ha => ⟨?_, ?_⟩⟩,
    hturn.trans hturn', hphase.trans hphase'⟩
  case free =>
    refine State.poll_judgedInto_none h (hslot.trans ?_)
    rw [State.slotEnd_vacant (.inl hnone)]
    exact hnone
  case vacant =>
    have hsame := State.slotEnd_vacant (r := tr.report st) hv
    rw [hsame] at h
    refine State.onlyPollsEnd_of_judgedInto h (hport p).2.1 fun j => (hpolls j).trans ?_
    rw [hsame]
    split
    next hj => rw [hj]
    · rfl
  case ends =>
    have hgone := State.slotEnd_ends hd hsq ha
    refine ⟨State.poll_judgedInto_none h (hslot.trans (by rw [hgone])),
      State.recordJoins_of_judgedInto h (hport q.port).2.1 ?_⟩
    rw [hgone]
    exact List.mem_singleton.mpr rfl
  case goesOn =>
    obtain rfl : st = .ok := Poll.status_of_answer_none ha
    have hstays : (s.iterationEnd c k (tr.report .ok)).poll k = some q' :=
      hslot.trans (by rw [State.slotEnd_goes_on hd hsq ha])
    refine ⟨fun hw => State.poll_judgedInto_keep h hstays (State.judgeSlot_idle (.inl hw)), fun hdue he x hx => ?_⟩
    have hx' : (s.iterationEnd c k (tr.report .ok)).entry q'.entry = some { x with nackCount := 0 } := by
      refine (State.entry_relayHealth s c.entry q'.entry .ack).trans ?_
      rw [if_pos he, he, hx]
      rfl
    have hbus : t.engine.busState ≠ .faulted := by
      rw [(hready (by decide)).1]
      decide
    have hhealth : (0 : Fin 4) ≠ 3 := by decide
    exact State.due_judgedInto (x := { x with nackCount := 0 }) h hstays hdue hx' hhealth hbus (hport q'.port).2.1
  case discarded =>
    refine State.poll_judgedInto_keep h (hslot.trans ?_) (State.judgeSlot_idle hidleSlot)
    rw [State.slotEnd_vacant (.inr hd)]
    exact hsq
  · rw [State.slotEnd_vacant hv]
    exact ⟨rfl, rfl⟩
  · rintro rfl
    rw [State.slotEnd_goes_on hd hsq ha]
    exact ⟨rfl, rfl⟩
  · rintro o rfl
    rw [State.slotEnd_ends hd hsq ha]
    exact ⟨rfl, rfl⟩

end Sys2Proof.Machine
